-- ==== Sys2Proof/Word.lean ====
section
/-! DEFINITION. The widths of the values the spec treats as bits (00_scope.md R6, R9). -/
namespace Sys2Proof

/-- A memory cell or a general register: 8 bits. -/
abbrev Byte := BitVec 8

/-- An instruction word, a PC value, a stack entry: 16 bits. -/
abbrev Word := BitVec 16

/-- A memory address, the width of I and of the immediate `nnn`: 12 bits (20_memory.md R60). -/
abbrev Addr := BitVec 12

/-- A register number x or y, a key number, the immediate `n`: 4 bits (30_encoding.md R92). -/
abbrev Nibble := BitVec 4

end Sys2Proof
end

