-- ==== Sys2Proof/Syntax.lean ====
section
/-! DEFINITION. The 34 instructions, one constructor per row of 30_encoding.md R96, in the table's order. The operands
have exactly the widths of R92, so every term is an instruction of the machine (R21, R95, R99). -/
namespace Sys2Proof

/-- One instruction with its field values (30_encoding.md R92, R96). -/
inductive Instr where
  | cls                                -- 00E0
  | ret                                -- 00EE
  | jp      (nnn : Addr)               -- 1nnn
  | call    (nnn : Addr)               -- 2nnn
  | seKk    (x : Nibble) (kk : Byte)   -- 3xkk
  | sneKk   (x : Nibble) (kk : Byte)   -- 4xkk
  | seVy    (x y : Nibble)             -- 5xy0
  | ldKk    (x : Nibble) (kk : Byte)   -- 6xkk
  | addKk   (x : Nibble) (kk : Byte)   -- 7xkk
  | ldVy    (x y : Nibble)             -- 8xy0
  | orVy    (x y : Nibble)             -- 8xy1
  | andVy   (x y : Nibble)             -- 8xy2
  | xorVy   (x y : Nibble)             -- 8xy3
  | addVy   (x y : Nibble)             -- 8xy4
  | subVy   (x y : Nibble)             -- 8xy5
  | shr     (x y : Nibble)             -- 8xy6, y encoded and ignored (R155)
  | subnVy  (x y : Nibble)             -- 8xy7
  | shl     (x y : Nibble)             -- 8xyE, y encoded and ignored (R157)
  | sneVy   (x y : Nibble)             -- 9xy0
  | ldI     (nnn : Addr)               -- Annn
  | jpV0    (nnn : Addr)               -- Bnnn
  | rnd     (x : Nibble) (kk : Byte)   -- Cxkk
  | drw     (x y n : Nibble)           -- Dxyn
  | skp     (x : Nibble)               -- Ex9E
  | sknp    (x : Nibble)               -- ExA1
  | ldVxDt  (x : Nibble)               -- Fx07
  | ldVxK   (x : Nibble)               -- Fx0A
  | ldDtVx  (x : Nibble)               -- Fx15
  | ldStVx  (x : Nibble)               -- Fx18
  | addIVx  (x : Nibble)               -- Fx1E
  | ldFVx   (x : Nibble)               -- Fx29
  | ldBVx   (x : Nibble)               -- Fx33
  | ldMemVx (x : Nibble)               -- Fx55
  | ldVxMem (x : Nibble)               -- Fx65
deriving DecidableEq, Repr

end Sys2Proof
end

