-- ==== Sys2Proof/WellFormed.lean ====
section
/-! DEFINITION. The checks the spec makes on what comes from outside: an instruction word (30_encoding.md R98), a program
image (70_reset_and_hazards.md R276), a font placement (00_scope.md R7). An Instr term needs no check: its operand types
have exactly the widths of R92, and no field value is illegal (R21, R99). -/
namespace Sys2Proof

/-- A word that R98's table of illegal sets does NOT list, written from that table alone (the decoder is another text). -/
def wordLegal (w : Word) : Bool :=
  let family := (w.toNat / 0x1000)
  let low3 := w.toNat % 0x1000
  let low2 := w.toNat % 0x100
  let low1 := w.toNat % 0x10
  if family = 0x0 then low3 = 0x0E0 || low3 = 0x0EE
  else if family = 0x5 ∨ family = 0x9 then low1 = 0
  else if family = 0x8 then !([8, 9, 0xA, 0xB, 0xC, 0xD, 0xF].contains low1)
  else if family = 0xE then [0x9E, 0xA1].contains low2
  else if family = 0xF then [0x07, 0x0A, 0x15, 0x18, 0x1E, 0x29, 0x33, 0x55, 0x65].contains low2
  else true

/-- The largest program: 3584 bytes fill 0x200..0xFFF (R276). -/
def maxProgramBytes : Nat := 3584

/-- A program LOAD accepts (R276): longer ones are answered ProgramTooLarge. -/
def programFits (rom : List Byte) : Bool := decide (rom.length ≤ maxProgramBytes)

/-- A font placement inside the reserved region (R7): 80 bytes and `FONT_BASE + 80 <= 0x200`. -/
def fontFits (base : Addr) (font : List Byte) : Bool :=
  decide (font.length = 80) && decide (base.toNat + 80 ≤ 0x200)

end Sys2Proof
end

