-- ==== Sys2Proof/Decode.lean ====
section
/-! DEFINITION. Decoding and encoding (30_encoding.md). The decoder is keyed as R101 says: family, then the low nibble,
low byte or low 12 bits. The opcode map of R96 stands beside it as rows of match and mask. -/
namespace Sys2Proof

/-! The fields of R92. -/

/-- The opcode family, bits 15:12. -/
def opField (w : Word) : Nibble := w.extractLsb' 12 4
/-- Field x, bits 11:8. -/
def xField (w : Word) : Nibble := w.extractLsb' 8 4
/-- Field y, bits 7:4. -/
def yField (w : Word) : Nibble := w.extractLsb' 4 4
/-- Field n, bits 3:0. -/
def nField (w : Word) : Nibble := w.extractLsb' 0 4
/-- Field kk, bits 7:0. -/
def kkField (w : Word) : Byte := w.extractLsb' 0 8
/-- Field nnn, bits 11:0. -/
def nnnField (w : Word) : Addr := w.extractLsb' 0 12

/-- Why decoding refuses (R98, R232). -/
inductive DecodeError where
  | unknownInstruction (w : Word)  -- the word matches no row of R96
  | truncated                      -- fewer than the two bytes R90 asks for
deriving DecidableEq, Repr

/-- DECODE (R100, R101, R232): a pure function of the word. -/
def decodeWord (w : Word) : Except DecodeError Instr :=
  let x := xField w
  let y := yField w
  let kk := kkField w
  let nnn := nnnField w
  match (opField w).toNat with
  | 0x0 =>
    match nnn.toNat with
    | 0x0E0 => .ok .cls
    | 0x0EE => .ok .ret
    | _ => .error (.unknownInstruction w)
  | 0x1 => .ok (.jp nnn)
  | 0x2 => .ok (.call nnn)
  | 0x3 => .ok (.seKk x kk)
  | 0x4 => .ok (.sneKk x kk)
  | 0x5 =>
    match (nField w).toNat with
    | 0x0 => .ok (.seVy x y)
    | _ => .error (.unknownInstruction w)
  | 0x6 => .ok (.ldKk x kk)
  | 0x7 => .ok (.addKk x kk)
  | 0x8 =>
    match (nField w).toNat with
    | 0x0 => .ok (.ldVy x y)
    | 0x1 => .ok (.orVy x y)
    | 0x2 => .ok (.andVy x y)
    | 0x3 => .ok (.xorVy x y)
    | 0x4 => .ok (.addVy x y)
    | 0x5 => .ok (.subVy x y)
    | 0x6 => .ok (.shr x y)
    | 0x7 => .ok (.subnVy x y)
    | 0xE => .ok (.shl x y)
    | _ => .error (.unknownInstruction w)
  | 0x9 =>
    match (nField w).toNat with
    | 0x0 => .ok (.sneVy x y)
    | _ => .error (.unknownInstruction w)
  | 0xA => .ok (.ldI nnn)
  | 0xB => .ok (.jpV0 nnn)
  | 0xC => .ok (.rnd x kk)
  | 0xD => .ok (.drw x y (nField w))
  | 0xE =>
    match kk.toNat with
    | 0x9E => .ok (.skp x)
    | 0xA1 => .ok (.sknp x)
    | _ => .error (.unknownInstruction w)
  | 0xF =>
    match kk.toNat with
    | 0x07 => .ok (.ldVxDt x)
    | 0x0A => .ok (.ldVxK x)
    | 0x15 => .ok (.ldDtVx x)
    | 0x18 => .ok (.ldStVx x)
    | 0x1E => .ok (.addIVx x)
    | 0x29 => .ok (.ldFVx x)
    | 0x33 => .ok (.ldBVx x)
    | 0x55 => .ok (.ldMemVx x)
    | 0x65 => .ok (.ldVxMem x)
    | _ => .error (.unknownInstruction w)
  | _ => .error (.unknownInstruction w)  -- no nibble is above 0xF

/-- The instruction word of two consecutive bytes, high byte first (20_memory.md R62). -/
def wordOfBytes (high low : Byte) : Word := high ++ low

/-- Decoding from bytes: the instruction and the bytes after it (R90: always two). -/
def decodeBytes : List Byte → Except DecodeError (Instr × List Byte)
  | high :: low :: rest =>
    match decodeWord (wordOfBytes high low) with
    | .ok i => .ok (i, rest)
    | .error e => .error e
  | _ => .error .truncated

/-! The encoder, R105: match, then the fields in their places. -/

/-- Format A (R94): family and 12-bit address. -/
def formatA (op : Nibble) (nnn : Addr) : Word := op ++ nnn
/-- Format XK (R94): family, register, byte. -/
def formatXK (op x : Nibble) (kk : Byte) : Word := (op ++ x) ++ kk
/-- Formats XY and XYN (R94): family, two registers, sub-opcode or immediate. -/
def formatXY (op x y n : Nibble) : Word := (op ++ x) ++ (y ++ n)

/-- The word of an instruction (R105), every field kept, the ignored y of SHR and SHL too (R99). -/
def encode : Instr → Word
  | .cls => 0x00E0
  | .ret => 0x00EE
  | .jp nnn => formatA 0x1 nnn
  | .call nnn => formatA 0x2 nnn
  | .seKk x kk => formatXK 0x3 x kk
  | .sneKk x kk => formatXK 0x4 x kk
  | .seVy x y => formatXY 0x5 x y 0x0
  | .ldKk x kk => formatXK 0x6 x kk
  | .addKk x kk => formatXK 0x7 x kk
  | .ldVy x y => formatXY 0x8 x y 0x0
  | .orVy x y => formatXY 0x8 x y 0x1
  | .andVy x y => formatXY 0x8 x y 0x2
  | .xorVy x y => formatXY 0x8 x y 0x3
  | .addVy x y => formatXY 0x8 x y 0x4
  | .subVy x y => formatXY 0x8 x y 0x5
  | .shr x y => formatXY 0x8 x y 0x6
  | .subnVy x y => formatXY 0x8 x y 0x7
  | .shl x y => formatXY 0x8 x y 0xE
  | .sneVy x y => formatXY 0x9 x y 0x0
  | .ldI nnn => formatA 0xA nnn
  | .jpV0 nnn => formatA 0xB nnn
  | .rnd x kk => formatXK 0xC x kk
  | .drw x y n => formatXY 0xD x y n
  | .skp x => formatXK 0xE x 0x9E
  | .sknp x => formatXK 0xE x 0xA1
  | .ldVxDt x => formatXK 0xF x 0x07
  | .ldVxK x => formatXK 0xF x 0x0A
  | .ldDtVx x => formatXK 0xF x 0x15
  | .ldStVx x => formatXK 0xF x 0x18
  | .addIVx x => formatXK 0xF x 0x1E
  | .ldFVx x => formatXK 0xF x 0x29
  | .ldBVx x => formatXK 0xF x 0x33
  | .ldMemVx x => formatXK 0xF x 0x55
  | .ldVxMem x => formatXK 0xF x 0x65

/-- The two bytes of an instruction in address order, high byte first (R105, R62). -/
def encodeBytes (i : Instr) : List Byte := [(encode i).extractLsb' 8 8, (encode i).extractLsb' 0 8]

/-! The opcode map of R96 as its own text: match and mask per row. -/

/-- The `match` and `mask` columns of R96, in the table's order. -/
def opcodeRows : List (Word × Word) :=
  [(0x00E0, 0xFFFF), (0x00EE, 0xFFFF), (0x1000, 0xF000), (0x2000, 0xF000), (0x3000, 0xF000), (0x4000, 0xF000),
   (0x5000, 0xF00F), (0x6000, 0xF000), (0x7000, 0xF000)] ++
  [(0x8000, 0xF00F), (0x8001, 0xF00F), (0x8002, 0xF00F), (0x8003, 0xF00F), (0x8004, 0xF00F), (0x8005, 0xF00F),
   (0x8006, 0xF00F), (0x8007, 0xF00F), (0x800E, 0xF00F), (0x9000, 0xF00F)] ++
  [(0xA000, 0xF000), (0xB000, 0xF000), (0xC000, 0xF000), (0xD000, 0xF000), (0xE09E, 0xF0FF), (0xE0A1, 0xF0FF)] ++
  [(0xF007, 0xF0FF), (0xF00A, 0xF0FF), (0xF015, 0xF0FF), (0xF018, 0xF0FF), (0xF01E, 0xF0FF), (0xF029, 0xF0FF),
   (0xF033, 0xF0FF), (0xF055, 0xF0FF), (0xF065, 0xF0FF)]

/-- "A word matches a row when `(instr & mask) == match`" (R96). -/
def rowMatches (w : Word) (row : Word × Word) : Bool := (w &&& row.2) == row.1

/-- The number (from 0) of an instruction's row in R96. -/
def rowOf : Instr → Nat
  | .cls => 0 | .ret => 1 | .jp _ => 2 | .call _ => 3 | .seKk _ _ => 4 | .sneKk _ _ => 5 | .seVy _ _ => 6
  | .ldKk _ _ => 7 | .addKk _ _ => 8 | .ldVy _ _ => 9 | .orVy _ _ => 10 | .andVy _ _ => 11 | .xorVy _ _ => 12
  | .addVy _ _ => 13 | .subVy _ _ => 14 | .shr _ _ => 15 | .subnVy _ _ => 16 | .shl _ _ => 17 | .sneVy _ _ => 18
  | .ldI _ => 19 | .jpV0 _ => 20 | .rnd _ _ => 21 | .drw _ _ _ => 22 | .skp _ => 23 | .sknp _ => 24
  | .ldVxDt _ => 25 | .ldVxK _ => 26 | .ldDtVx _ => 27 | .ldStVx _ => 28 | .addIVx _ => 29 | .ldFVx _ => 30
  | .ldBVx _ => 31 | .ldMemVx _ => 32 | .ldVxMem _ => 33

/-- The instruction whose bits are `w` as spec/opcode_table.json numbers them (one 16-bit word, stored high byte first,
R62); bits above `nbits` are 0. -/
def decodeTableWord (nbits w : Nat) : Option Instr :=
  let word : Word := BitVec.ofNat 16 (w % 2 ^ nbits)
  match decodeBytes [word.extractLsb' 8 8, word.extractLsb' 0 8] with
  | .ok (i, _) => some i
  | .error _ => none

end Sys2Proof
end

