-- ==== Sys2Proof/Config.lean ====
section
/-! DEFINITION. What the spec leaves to the host or to a parameter (00_scope.md R7, R8; 10_state.md R43 to R45). The
free values are opaque constants without a body: nothing can be proved of a value of theirs. The parameters' VALUES
stand in Machine/Params.lean. -/
namespace Sys2Proof.Config

/-- `OOB_POLICY` (R7, R68): what an access outside 0x000..0xFFF does. -/
inductive OobPolicy where
  | fault  -- the spec's choice (D9): AddressOutOfRange before any access
  | wrap   -- the alternative of R68: addresses are reduced modulo 4096, no fault exists
deriving DecidableEq, Repr

/-- The host's KEYS input (R43) at the n-th STEP for which the schedule names none. DESIGN CHOICE (log 2), safe: a
free 16-bit value (U12). -/
opaque freeKeys : Nat → BitVec 16

/-- The host's KEY_PENDING input (R44) at the n-th such STEP. DESIGN CHOICE (log 2), safe: a free answer, `none` or
one of 16 keys (U11). -/
opaque freeKeyPending : Nat → Option Nibble

/-- The RND input (R45) at the n-th such STEP. DESIGN CHOICE (log 2), safe: a free byte, a fresh one each time (U10). -/
opaque freeRnd : Nat → Byte

end Sys2Proof.Config
end

