-- ==== Sys2Proof/Machine/Params.lean ====
section
/-! DEFINITION. The parameters of 00_scope.md R7 and R8 at the values the spec fixes for them. -/
namespace Sys2Proof.Machine

/-- `FONT_BASE` (R7, R34). The spec's own decision (D3), UNVERIFIED, unsafe: log 6. -/
def fontBase : Addr := 0x000

/-- `FONT` (10_state.md R35), glyphs 0 to F, 5 bytes each. PRESUMED: the spec takes it from general
knowledge (K1, D4), unsafe: log 7. -/
def font : List Byte :=
  [0xF0, 0x90, 0x90, 0x90, 0xF0, 0x20, 0x60, 0x20, 0x20, 0x70, 0xF0, 0x10, 0xF0, 0x80, 0xF0, 0xF0, 0x10, 0xF0, 0x10, 0xF0] ++
  [0x90, 0x90, 0xF0, 0x10, 0x10, 0xF0, 0x80, 0xF0, 0x10, 0xF0, 0xF0, 0x80, 0xF0, 0x90, 0xF0, 0xF0, 0x10, 0x20, 0x40, 0x40] ++
  [0xF0, 0x90, 0xF0, 0x90, 0xF0, 0xF0, 0x90, 0xF0, 0x10, 0xF0, 0xF0, 0x90, 0xF0, 0x90, 0x90, 0xE0, 0x90, 0xE0, 0x90, 0xE0] ++
  [0xF0, 0x80, 0x80, 0x80, 0xF0, 0xE0, 0x90, 0x90, 0x90, 0xE0, 0xF0, 0x80, 0xF0, 0x80, 0xF0, 0xF0, 0x80, 0xF0, 0x80, 0x80]

/-- `OOB_POLICY` (R7). The spec's own decision (D9), UNVERIFIED, safe: log 10. -/
def oobPolicy : Config.OobPolicy := .fault

/-- `SHIFT_USES_VY` (R8). The spec's own decision (D6), UNVERIFIED, unsafe: log 8. -/
def shiftUsesVy : Bool := false

/-- `BORROW_STRICT` (R8). The spec's own decision (D7), UNVERIFIED, unsafe: log 9. -/
def borrowStrict : Bool := false

/-- The program origin, where LOAD copies and where PC starts (20_memory.md R71, 70_reset_and_hazards.md R271). -/
def programOrigin : Word := 0x0200

/-- What RESET leaves in a memory cell (R270): the font at `FONT_BASE`, 0x00 elsewhere (the spec's own decision D2,
UNVERIFIED, unsafe: log 5). It is also what an unlisted cell of the model's memory reads as (log 24). -/
def resetByte (a : Nat) : Byte :=
  if fontBase.toNat ≤ a ∧ a < fontBase.toNat + 80 then font.getD (a - fontBase.toNat) 0x00 else 0x00

end Sys2Proof.Machine
end

