-- ==== Sys2Proof/Machine/State.lean ====
section
/-! DEFINITION. The state of the core (10_state.md R20), the halt record (R38), the host's side of the interface as plain
data (R15, R43 to R49), and the state after RESET (R50). -/
namespace Sys2Proof.Machine

/-- Nothing in this machine stops the model with a fault: each of the spec's faults is TAKEN as a next state whose halt
record is filled in (60_exceptions.md R241, R250; log 4), and no access leaves the 4096 cells unchecked. The type is
closed and empty, so `Outcome.fault` is unreachable, which is safe. -/
inductive Fault
deriving DecidableEq, Repr

/-- Why an instruction has no meaning. -/
inductive Refusal where
  /-- Raised only by an arm of `exec` for an instruction without a meaning; no arm does at present. Safe. -/
  | notModelled (mnemonic : String)
deriving DecidableEq, Repr

/-- The cause of a fault (60_exceptions.md R242). -/
inductive Cause where
  | none
  | unknownInstruction
  | stackOverflow
  | stackUnderflow
  | addressOutOfRange
deriving DecidableEq, Repr

/-- The halt record (10_state.md R38). -/
structure HaltRecord where
  halt   : Bool   -- HALT
  cause  : Cause  -- CAUSE
  einstr : Word   -- EINSTR
  epc    : Word   -- EPC
  eaddr  : Word   -- EADDR
deriving DecidableEq, Repr

/-- The halt record while HALT is 0: every field zero (R38). -/
def HaltRecord.clear : HaltRecord := ⟨false, .none, 0, 0, 0⟩

/-- The inputs one STEP samples (10_state.md R43, R44, R45). -/
structure Inputs where
  keys       : BitVec 16      -- KEYS: bit k is 1 when key k is down
  keyPending : Option Nibble  -- KEY_PENDING
  rnd        : Byte           -- RND
deriving DecidableEq, Repr

/-- An operation the host requests (00_scope.md R15). -/
inductive HostOp where
  | reset                    -- RESET
  | load (rom : List Byte)   -- LOAD
  | step (inp : Inputs)      -- STEP, with the inputs it samples
  | tick                     -- TICK
  | snapshot                 -- SNAPSHOT
deriving DecidableEq, Repr

/-- The status of a STEP (00_scope.md R16, 10_state.md R49). -/
inductive Status where
  | ok
  | blocked
  | fault
deriving DecidableEq, Repr

/-- What the core answered to the last operation: the outputs that are pulses or results (10_state.md R44, R46, R49;
70_reset_and_hazards.md R275, R276). The MODEL's own record of outputs (log 3). -/
inductive Report where
  | none                                     -- no operation yet
  | step (status : Status) (keyAck : Bool)   -- a STEP's status and KEY_ACK
  | tick                                     -- RENDER_REQ raised
  | load (accepted : Bool)                   -- false: ProgramTooLarge
  | reset                                    -- RESET done
  | snapshot (cells : List Bool)             -- the 2048 cells, row-major
deriving DecidableEq, Repr

/-- Memory as its listed cells, in the canonical form of `Memory.wf` (20_memory.md R60; log 24). -/
abbrev Memory := List Host.Cell

/-- The framebuffer: 32 rows of 64 cells, `true` is on (10_state.md R32). -/
abbrev Framebuffer := Vector (Vector Bool 64) 32

/-- Everything the spec gives the machine (R20), then the model's own fields (log 1, 2, 3). -/
structure State where
  v        : Vector Byte 16   -- V0 .. VF (R21)
  i        : Addr             -- I (R24)
  pc       : Word             -- PC (R25)
  dt       : Byte             -- delay timer (R28)
  st       : Byte             -- sound timer (R28)
  sp       : Fin 17           -- entries in use, 0 .. 16 (R30)
  stack    : Vector Word 16   -- STACK[k] at index k - 1 (R30)
  fb       : Framebuffer      -- FB (R32)
  mem      : Memory           -- MEM (R33)
  haltRec  : HaltRecord       -- HALT, CAUSE, EINSTR, EPC, EADDR (R38)
  inp      : Inputs           -- model: the inputs the current STEP sampled
  schedule : List HostOp      -- model: what the host requests next, in order
  freeIdx  : Nat              -- model: free inputs drawn so far
  report   : Report           -- model: the answer to the last operation
deriving DecidableEq, Repr

/-- The state right after RESET (R50, 70_reset_and_hazards.md R270). PC, the font and the halt record are as the spec
gives them; the zeros are the spec's own decision D2 (UNVERIFIED, unsafe: log 5); the model's own fields are a DESIGN
CHOICE (log 27). Memory lists nothing: an unlisted cell reads as `resetByte`. -/
def State.reset : State where
  v        := Vector.replicate 16 0x00
  i        := 0x000
  pc       := 0x0200
  dt       := 0x00
  st       := 0x00
  sp       := 0
  stack    := Vector.replicate 16 0x0000
  fb       := Vector.replicate 32 (Vector.replicate 64 false)
  mem      := []
  haltRec  := .clear
  inp      := ⟨0, .none, 0⟩
  schedule := []
  freeIdx  := 0
  report   := .none

end Sys2Proof.Machine
end

