-- ==== Sys2Proof/Machine/Ops.lean ====
section
/-! DEFINITION. The named operations over registers, memory, stack and PC, and taking a fault: ONE shared operation
(60_exceptions.md R241, R250). There is no return from a fault: only RESET leaves the halted state (R251). -/
namespace Sys2Proof.Machine

/-! Memory (20_memory.md R70: plain storage). -/

/-- The content of cell `a`. An unlisted cell holds what RESET left there. -/
def Memory.read : Memory → Nat → Byte
  | [], a => resetByte a
  | (k, b) :: rest, a => if k = a then b else Memory.read rest a

/-- List a cell in its place by address. -/
def Memory.insertCell (a : Nat) (b : Byte) : Memory → Memory
  | [] => [(a, b)]
  | (k, c) :: rest => if a < k then (a, b) :: (k, c) :: rest else (k, c) :: Memory.insertCell a b rest

/-- Store `b` in cell `a`; a value that equals what an unlisted cell reads as is not listed. -/
def Memory.write (m : Memory) (a : Nat) (b : Byte) : Memory :=
  if b = resetByte a then m.filter (fun c => c.1 != a)
  else Memory.insertCell a b (m.filter (fun c => c.1 != a))

/-- Every listed address is at least `lo`, below 4096, strictly rising, and no entry equals what an unlisted cell reads
as. -/
def Memory.wfFrom (lo : Nat) : Memory → Bool
  | [] => true
  | (a, b) :: rest => decide (lo ≤ a) && decide (a < 4096) && (b != resetByte a) && Memory.wfFrom (a + 1) rest

/-- The canonical form of memory (log 24). -/
def Memory.wf (m : Memory) : Bool := Memory.wfFrom 0 m

/-- Consecutive bytes stored from cell `a` upwards, in order (LOAD's copy loop, 70_reset_and_hazards.md R275). -/
def Memory.writeBytes (m : Memory) (a : Nat) : List Byte → Memory
  | [] => m
  | b :: rest => Memory.writeBytes (m.write a b) (a + 1) rest

/-- `MemRead(addr, 1)` (00_scope.md R12). -/
def State.readByte (s : State) (a : Addr) : Byte := s.mem.read a.toNat

/-- `MemWrite(addr, 1, b)` (R12). -/
def State.writeByte (s : State) (a : Addr) (b : Byte) : State := { s with mem := s.mem.write a.toNat b }

/-! General registers and I (10_state.md R21, R24): no register is hard-wired or guarded, VF included (R22). -/

/-- `V[x]` (00_scope.md R11). -/
def State.vx (s : State) (x : Nibble) : Byte := s.v[x.toNat]'x.isLt

/-- `V[x] <- b` (R11). -/
def State.setVx (s : State) (x : Nibble) (b : Byte) : State := { s with v := s.v.set x.toNat b x.isLt }

/-- `I <- a`. -/
def State.setI (s : State) (a : Addr) : State := { s with i := a }

/-! The call stack (R30). -/

/-- The top entry `STACK[SP]`; meaningful when `SP > 0`. -/
def State.stackTop (s : State) : Word := s.stack[s.sp.val - 1]'(by have := s.sp.isLt; omega)

/-- `SP <- SP + 1; STACK[SP] <- a` (R30: increment, then store); a full stack is left alone, its caller faults. -/
def State.push (s : State) (a : Word) : State :=
  if h : s.sp.val < 16 then
    { s with sp := ⟨s.sp.val + 1, by omega⟩, stack := s.stack.set s.sp.val a h }
  else s

/-- `SP <- SP - 1` after the load of the top entry (R30); the slot keeps its value (R121). -/
def State.pop (s : State) : State :=
  { s with sp := ⟨s.sp.val - 1, by have := s.sp.isLt; omega⟩ }

/-! How a STEP ends (00_scope.md R16). `exec` runs an instruction on the state of the fetch, where `PC == fa`; the
advance `PC <- fa + 2` of FETCH is written by the meaning (log 11). -/

/-- Status OK with PC left at `pc'`. -/
def State.retire (s : State) (pc' : Word) : State := { s with pc := pc', report := .step .ok false }

/-- Status OK at the next instruction, `PC == fa + 2` (10_state.md R26). -/
def State.retireNext (s : State) : State := s.retire (s.pc + 2)

/-- Status BLOCKED: nothing changes, PC is (back) at `fa` (44_keys_timers.md R213, 90_conflicts.md C1). -/
def State.block (s : State) : State := { s with report := .step .blocked false }

/-- KEY_ACK for this STEP (10_state.md R44). -/
def State.ackKey (s : State) : State := { s with report := .step .ok true }

/-- Taking a fault (60_exceptions.md R234, R241, R242): the halt record is filled in, HALT is set, PC stays at `fa`, and
nothing else changes. -/
def State.raise (s : State) (cause : Cause) (instr addr : Word) : State :=
  { s with haltRec := ⟨true, cause, instr, s.pc, addr⟩, report := .step .fault false }

/-- The fault an instruction raises in EXECUTE: EINSTR is its word (R242). -/
def State.raiseIn (s : State) (i : Instr) (cause : Cause) (addr : Word) : State := s.raise cause (encode i) addr

/-- CAUSE as the 3-bit code of R242. -/
def Cause.code : Cause → BitVec 3
  | .none => 0
  | .unknownInstruction => 1
  | .stackOverflow => 2
  | .stackUnderflow => 3
  | .addressOutOfRange => 4

end Sys2Proof.Machine
end

