-- ==== Sys2Proof/Machine/Flags.lean ====
section
/-! DEFINITION. The one flag, VF (10_state.md R36): how each value of it is computed, and the order of the two writes of
a flag-writing instruction (41_load_alu.md R141). -/
namespace Sys2Proof.Machine

/-- VF's number (R22). -/
def vf : Nibble := 0xF

/-- The flag as 8 bits: 0x01 or 0x00 (R36). -/
def flagByte (c : Bool) : Byte := if c then 0x01 else 0x00

/-- Carry of `a + b`: the unsigned sum exceeds 255 (R153). -/
def carryOf (a b : Byte) : Bool := decide (a.toNat + b.toNat > 255)

/-- "Not borrow" of `a - b`: `a >= b`, or `a > b` under `BORROW_STRICT = true` (R154, R156). -/
def notBorrowOf (strict : Bool) (a b : Byte) : Bool :=
  if strict then decide (a.toNat > b.toNat) else decide (a.toNat ≥ b.toNat)

/-- The bit a right shift drops, `a[0]` (R155). -/
def lowBit (a : Byte) : Bool := a.getLsbD 0

/-- The bit a left shift drops, `a[7]` (R157). -/
def highBit (a : Byte) : Bool := a.getLsbD 7

/-- Steps (c) and (d) of R141: the result to `V[x]`, then the flag to `V[15]`. -/
def State.setResultFlag (s : State) (x : Nibble) (result : Byte) (c : Bool) : State :=
  (s.setVx x result).setVx vf (flagByte c)

end Sys2Proof.Machine
end

