-- ==== Sys2Proof/Machine/Operands.lean ====
section
/-! DEFINITION. Operand forms: effective addresses and their range checks (20_memory.md R66 to R68), block transfers,
decimal digits, glyph addresses, key numbers, skip and jump targets. -/
namespace Sys2Proof.Machine

/-! Base I plus offset (42_index_memory.md R170). -/

/-- The effective address `I + j`. Under `OOB_POLICY = fault` the check of R66 has passed and the sum is below 4096;
under `wrap` (R68) it is reduced modulo 4096, which the width does. -/
def dataAddr (base : Addr) (j : Nat) : Addr := base + BitVec.ofNat 12 j

/-- R66: does the byte range `I .. I + m` leave memory (the sum is unbounded)? Never under R68's `wrap`. -/
def rangeFaults (policy : Config.OobPolicy) (base : Addr) (m : Nat) : Bool :=
  match policy with
  | .fault => decide (base.toNat + m > 0xFFF)
  | .wrap => false

/-- `addr` of a data range fault: the first address outside memory (R66). -/
def firstOutside : Word := 0x1000

/-- The `count` bytes from `I` upwards. -/
def State.readBlock (s : State) (count : Nat) : List Byte :=
  (List.range count).map (fun j => s.readByte (dataAddr s.i j))

/-- `for i in 0 .. count-1: MemWrite(I + i, 1, V[i])`, ascending (R175). -/
def State.storeRegs (s : State) : Nat → State
  | 0 => s
  | k + 1 => (s.storeRegs k).writeByte (dataAddr s.i k) (s.vx (BitVec.ofNat 4 k))

/-- `for i in 0 .. count-1: V[i] <- MemRead(I + i, 1)`, ascending (R176). -/
def State.loadRegs (s : State) : Nat → State
  | 0 => s
  | k + 1 => (s.loadRegs k).setVx (BitVec.ofNat 4 k) (s.readByte (dataAddr s.i k))

/-! Decimal digits (R174). -/

/-- `v div 100`. -/
def bcdHundreds (v : Byte) : Byte := BitVec.ofNat 8 (v.toNat / 100)
/-- `(v div 10) mod 10`. -/
def bcdTens (v : Byte) : Byte := BitVec.ofNat 8 (v.toNat / 10 % 10)
/-- `v mod 10`. -/
def bcdOnes (v : Byte) : Byte := BitVec.ofNat 8 (v.toNat % 10)

/-- The three stores of R174, in order. -/
def State.storeBcd (s : State) (v : Byte) : State :=
  ((s.writeByte (dataAddr s.i 0) (bcdHundreds v)).writeByte (dataAddr s.i 1) (bcdTens v)).writeByte
    (dataAddr s.i 2) (bcdOnes v)

/-! Low nibbles of Vx. -/

/-- The digit of LD F and the key of SKP and SKNP: `Vx[3:0]` (R173 by D12, R211 by D13). The spec's own
decisions, UNVERIFIED, unsafe: log 15, 16. -/
def lowNibble (b : Byte) : Nibble := b.extractLsb' 0 4

/-- `FONT_BASE + 5 * d` (R173). -/
def glyphAddr (d : Nibble) : Addr := fontBase + BitVec.ofNat 12 (5 * d.toNat)

/-- `KEYS[k] == 1` (10_state.md R43). -/
def Inputs.keyDown (inp : Inputs) (k : Nibble) : Bool := inp.keys.getLsbD k.toNat

/-! PC targets (10_state.md R26), from the fetch address. -/

/-- A skip leaves `fa + 4` if the condition holds, else `fa + 2` (40_control_flow.md R129). -/
def skipTarget (fa : Word) (cond : Bool) : Word := if cond then fa + 4 else fa + 2

/-- `zext_16(nnn)` (R122). -/
def absTarget (nnn : Addr) : Word := nnn.setWidth 16

/-- `nnn + V[0]` as a 16-bit sum, not masked (R124). -/
def indexedTarget (nnn : Addr) (v0 : Byte) : Word := nnn.setWidth 16 + v0.setWidth 16

/-- The operand of SHR and SHL: Vx, or Vy under `SHIFT_USES_VY = true` (R155, R157). -/
def shiftOperand (usesVy : Bool) (vx vy : Byte) : Byte := if usesVy then vy else vx

end Sys2Proof.Machine
end

