-- ==== Sys2Proof/Machine/Alu.lean ====
section
/-! DEFINITION. Register load, ALU and random instructions (41_load_alu.md). -/
namespace Sys2Proof.Machine

/-- `6xkk`, LD Vx, kk (R147). -/
def execLdKk (x : Nibble) (kk : Byte) (s : State) : Host.Outcome State Fault Refusal :=
  .next (s.setVx x kk).retireNext

/-- `7xkk`, ADD Vx, kk (R148): wraps, no flag. -/
def execAddKk (x : Nibble) (kk : Byte) (s : State) : Host.Outcome State Fault Refusal :=
  .next (s.setVx x (s.vx x + kk)).retireNext

/-- `8xy0`, LD Vx, Vy (R149). -/
def execLdVy (x y : Nibble) (s : State) : Host.Outcome State Fault Refusal :=
  .next (s.setVx x (s.vx y)).retireNext

/-- `8xy1`, OR (R150): VF is left alone. -/
def execOrVy (x y : Nibble) (s : State) : Host.Outcome State Fault Refusal :=
  .next (s.setVx x (s.vx x ||| s.vx y)).retireNext

/-- `8xy2`, AND (R151): VF is left alone. -/
def execAndVy (x y : Nibble) (s : State) : Host.Outcome State Fault Refusal :=
  .next (s.setVx x (s.vx x &&& s.vx y)).retireNext

/-- `8xy3`, XOR (R152): VF is left alone. -/
def execXorVy (x y : Nibble) (s : State) : Host.Outcome State Fault Refusal :=
  .next (s.setVx x (s.vx x ^^^ s.vx y)).retireNext

/-- `8xy4`, ADD Vx, Vy (R153): VF is the carry. -/
def execAddVy (x y : Nibble) (s : State) : Host.Outcome State Fault Refusal :=
  .next (s.setResultFlag x (s.vx x + s.vx y) (carryOf (s.vx x) (s.vx y))).retireNext

/-- `8xy5`, SUB Vx, Vy (R154): VF is "not borrow". -/
def execSubVy (x y : Nibble) (s : State) : Host.Outcome State Fault Refusal :=
  .next (s.setResultFlag x (s.vx x - s.vx y) (notBorrowOf borrowStrict (s.vx x) (s.vx y))).retireNext

/-- `8xy6`, SHR Vx (R155): VF is the bit shifted out. -/
def execShr (x y : Nibble) (s : State) : Host.Outcome State Fault Refusal :=
  let a := shiftOperand shiftUsesVy (s.vx x) (s.vx y)
  .next (s.setResultFlag x (a >>> 1) (lowBit a)).retireNext

/-- `8xy7`, SUBN Vx, Vy (R156): the subtraction the other way. -/
def execSubnVy (x y : Nibble) (s : State) : Host.Outcome State Fault Refusal :=
  .next (s.setResultFlag x (s.vx y - s.vx x) (notBorrowOf borrowStrict (s.vx y) (s.vx x))).retireNext

/-- `8xyE`, SHL Vx (R157): VF is the bit shifted out. -/
def execShl (x y : Nibble) (s : State) : Host.Outcome State Fault Refusal :=
  let a := shiftOperand shiftUsesVy (s.vx x) (s.vx y)
  .next (s.setResultFlag x (a <<< 1) (highBit a)).retireNext

/-- `Cxkk`, RND Vx, kk (R158): this STEP's draw, masked. -/
def execRnd (x : Nibble) (kk : Byte) (s : State) : Host.Outcome State Fault Refusal :=
  .next (s.setVx x (s.inp.rnd &&& kk)).retireNext

end Sys2Proof.Machine
end

