-- ==== Sys2Proof/Machine/Control.lean ====
section
/-! DEFINITION. Control transfer (40_control_flow.md): RET, JP, CALL, JP V0, SE, SNE. Each meaning runs on the state of
the fetch, `s.pc = fa` (log 11). -/
namespace Sys2Proof.Machine

/-- `00EE`, RET (R121): StackUnderflow when `SP == 0`, else load, then decrement. -/
def execRet (s : State) : Host.Outcome State Fault Refusal :=
  .next (if s.sp.val = 0 then s.raiseIn .ret .stackUnderflow 0x0000 else s.pop.retire s.stackTop)

/-- `1nnn`, JP (R122). -/
def execJp (nnn : Addr) (s : State) : Host.Outcome State Fault Refusal :=
  .next (s.retire (absTarget nnn))

/-- `2nnn`, CALL (R123): StackOverflow when `SP == 16`, else push `fa + 2`. -/
def execCall (nnn : Addr) (s : State) : Host.Outcome State Fault Refusal :=
  .next (if s.sp.val = 16 then s.raiseIn (.call nnn) .stackOverflow 0x0000
    else (s.push (s.pc + 2)).retire (absTarget nnn))

/-- `Bnnn`, JP V0 (R124). -/
def execJpV0 (nnn : Addr) (s : State) : Host.Outcome State Fault Refusal :=
  .next (s.retire (indexedTarget nnn (s.vx 0x0)))

/-- `3xkk`, SE Vx, kk (R125). -/
def execSeKk (x : Nibble) (kk : Byte) (s : State) : Host.Outcome State Fault Refusal :=
  .next (s.retire (skipTarget s.pc (s.vx x == kk)))

/-- `4xkk`, SNE Vx, kk (R126). -/
def execSneKk (x : Nibble) (kk : Byte) (s : State) : Host.Outcome State Fault Refusal :=
  .next (s.retire (skipTarget s.pc (s.vx x != kk)))

/-- `5xy0`, SE Vx, Vy (R127). -/
def execSeVy (x y : Nibble) (s : State) : Host.Outcome State Fault Refusal :=
  .next (s.retire (skipTarget s.pc (s.vx x == s.vx y)))

/-- `9xy0`, SNE Vx, Vy (R128). -/
def execSneVy (x y : Nibble) (s : State) : Host.Outcome State Fault Refusal :=
  .next (s.retire (skipTarget s.pc (s.vx x != s.vx y)))

end Sys2Proof.Machine
end

