-- ==== Sys2Proof/Machine/Framebuffer.lean ====
section
/-! DEFINITION. The framebuffer controller: clear, drawByte, snapshot (43_display.md R191, R192, R195). -/
namespace Sys2Proof.Machine

/-- `FB[r][c]` (10_state.md R32). -/
def Framebuffer.cell (fb : Framebuffer) (r : Fin 32) (c : Fin 64) : Bool := fb[r][c]

/-- `FB[r][c] <- b`. -/
def Framebuffer.setCell (fb : Framebuffer) (r : Fin 32) (c : Fin 64) (b : Bool) : Framebuffer :=
  fb.set r.val (fb[r].set c.val b)

/-- `clear()`: all cells off (R191). -/
def Framebuffer.cleared : Framebuffer := Vector.replicate 32 (Vector.replicate 64 false)

/-- `y mod 32` (R192). -/
def wrapRow (y : Nat) : Fin 32 := ⟨y % 32, by omega⟩

/-- `(x + k) mod 64` (R192). -/
def wrapCol (x k : Nat) : Fin 64 := ⟨(x + k) % 64, by omega⟩

/-- The first `k` of drawByte's eight bit operations on row `r`, bit offset 0 (the most significant bit) first: the
framebuffer and `collided` after them (R192). -/
def drawBits (fb : Framebuffer) (r : Fin 32) (x : Nat) (b : Byte) : Nat → Framebuffer × Bool
  | 0 => (fb, false)
  | k + 1 =>
    let done := drawBits fb r x b k
    let bit := b.getLsbD (7 - k)
    let old := done.1.cell r (wrapCol x k)
    (done.1.setCell r (wrapCol x k) (old ^^ bit), done.2 || (old && bit))

/-- `drawByte(x, y, b)` (R192). -/
def drawByte (fb : Framebuffer) (x y : Nat) (b : Byte) : Framebuffer × Bool := drawBits fb (wrapRow y) x b 8

/-- The sprite rows of R193, top row first: row j at vertical position `y + j`. -/
def drawSprite (fb : Framebuffer) (x y : Nat) : List Byte → Framebuffer × Bool
  | [] => (fb, false)
  | b :: rest =>
    let first := drawByte fb x y b
    let others := drawSprite first.1 x (y + 1) rest
    (others.1, first.2 || others.2)

/-- The cells in the order of the snapshot: `FB[r][c]` at index `64 r + c` (10_state.md R32, R46). -/
def Framebuffer.cells (fb : Framebuffer) : List Bool := (fb.toList.map Vector.toList).flatten

end Sys2Proof.Machine
end

