-- ==== Sys2Proof/Machine/Display.lean ====
section
/-! DEFINITION. Display instructions (43_display.md). -/
namespace Sys2Proof.Machine

/-- `00E0`, CLS (R191): VF is not written. -/
def execCls (s : State) : Host.Outcome State Fault Refusal :=
  .next { s with fb := Framebuffer.cleared }.retireNext

/-- The drawing part of R193: `n` sprite bytes from I at (`px`, `py`), then VF. -/
def State.draw (s : State) (px py : Byte) (n : Nat) : State :=
  let drawn := drawSprite s.fb px.toNat py.toNat (s.readBlock n)
  { s with fb := drawn.1 }.setVx vf (flagByte drawn.2)

/-- `Dxyn`, DRW Vx, Vy, n (R193): Vx and Vy are read before VF is written; `n = 0` draws nothing, makes no check and
writes VF = 0 (D22, log 17). -/
def execDrw (x y n : Nibble) (s : State) : Host.Outcome State Fault Refusal :=
  .next (if n.toNat ≥ 1 && rangeFaults oobPolicy s.i (n.toNat - 1) then
      s.raiseIn (.drw x y n) .addressOutOfRange firstOutside
    else (s.draw (s.vx x) (s.vx y) n.toNat).retireNext)

end Sys2Proof.Machine
end

