-- ==== Sys2Proof/Machine/Index.lean ====
section
/-! DEFINITION. Index register and memory instructions (42_index_memory.md). The range check comes before any access, and
I is never written by a transfer (R170, R177). -/
namespace Sys2Proof.Machine

/-- `Annn`, LD I, nnn (R171). -/
def execLdI (nnn : Addr) (s : State) : Host.Outcome State Fault Refusal :=
  .next (s.setI nnn).retireNext

/-- `Fx1E`, ADD I, Vx (R172): modulo 4096, no flag. -/
def execAddIVx (x : Nibble) (s : State) : Host.Outcome State Fault Refusal :=
  .next (s.setI (s.i + (s.vx x).setWidth 12)).retireNext

/-- `Fx29`, LD F, Vx (R173): the glyph address of the digit `Vx[3:0]`. -/
def execLdFVx (x : Nibble) (s : State) : Host.Outcome State Fault Refusal :=
  .next (s.setI (glyphAddr (lowNibble (s.vx x)))).retireNext

/-- `Fx33`, LD B, Vx (R174): hundreds, tens, ones. -/
def execLdBVx (x : Nibble) (s : State) : Host.Outcome State Fault Refusal :=
  .next (if rangeFaults oobPolicy s.i 2 then s.raiseIn (.ldBVx x) .addressOutOfRange firstOutside
    else (s.storeBcd (s.vx x)).retireNext)

/-- `Fx55`, LD [I], Vx (R175): stores V0 to Vx, inclusive. -/
def execLdMemVx (x : Nibble) (s : State) : Host.Outcome State Fault Refusal :=
  .next (if rangeFaults oobPolicy s.i x.toNat then s.raiseIn (.ldMemVx x) .addressOutOfRange firstOutside
    else (s.storeRegs (x.toNat + 1)).retireNext)

/-- `Fx65`, LD Vx, [I] (R176): loads V0 to Vx, inclusive. -/
def execLdVxMem (x : Nibble) (s : State) : Host.Outcome State Fault Refusal :=
  .next (if rangeFaults oobPolicy s.i x.toNat then s.raiseIn (.ldVxMem x) .addressOutOfRange firstOutside
    else (s.loadRegs (x.toNat + 1)).retireNext)

end Sys2Proof.Machine
end

