-- ==== Sys2Proof/Machine/KeysTimers.lean ====
section
/-! DEFINITION. Keyboard and timer instructions (44_keys_timers.md). The inputs are those this STEP sampled, `s.inp`. -/
namespace Sys2Proof.Machine

/-- `Ex9E`, SKP Vx (R211). -/
def execSkp (x : Nibble) (s : State) : Host.Outcome State Fault Refusal :=
  .next (s.retire (skipTarget s.pc (s.inp.keyDown (lowNibble (s.vx x)))))

/-- `ExA1`, SKNP Vx (R212). -/
def execSknp (x : Nibble) (s : State) : Host.Outcome State Fault Refusal :=
  .next (s.retire (skipTarget s.pc (!s.inp.keyDown (lowNibble (s.vx x)))))

/-- `Fx0A`, LD Vx, K (R213): BLOCKED with nothing changed while no key is pending, else the key, and KEY_ACK. -/
def execLdVxK (x : Nibble) (s : State) : Host.Outcome State Fault Refusal :=
  .next (match s.inp.keyPending with
    | none => s.block
    | some k => ((s.setVx x (k.setWidth 8)).retireNext).ackKey)

/-- `Fx07`, LD Vx, DT (R214). -/
def execLdVxDt (x : Nibble) (s : State) : Host.Outcome State Fault Refusal :=
  .next (s.setVx x s.dt).retireNext

/-- `Fx15`, LD DT, Vx (R215). -/
def execLdDtVx (x : Nibble) (s : State) : Host.Outcome State Fault Refusal :=
  .next { s with dt := s.vx x }.retireNext

/-- `Fx18`, LD ST, Vx (R216). -/
def execLdStVx (x : Nibble) (s : State) : Host.Outcome State Fault Refusal :=
  .next { s with st := s.vx x }.retireNext

end Sys2Proof.Machine
end

