-- ==== Sys2Proof/Machine/Fetch.lean ====
section
/-! DEFINITION. A STEP up to EXECUTE (60_exceptions.md R230 to R232, R234): the halt latch, FETCH, DECODE. -/
namespace Sys2Proof.Machine

/-- The cell a fetch address names. Under `OOB_POLICY = fault` the check of R67 has passed; under `wrap` (R68) the address
is reduced modulo 4096. -/
def fetchCell (a : Word) : Addr := a.setWidth 12

/-- R67: the address a fetch at `fa` faults with, if it does: `fa` above 0x0FFF, 0x1000 at 0x0FFF. -/
def fetchFault (policy : Config.OobPolicy) (fa : Word) : Option Word :=
  match policy with
  | .fault => if fa.toNat > 0x0FFE then some (if fa.toNat = 0x0FFF then firstOutside else fa) else none
  | .wrap => none

/-- `MEM[fa] ++ MEM[fa + 1]` at PC (R231, 20_memory.md R62). -/
def State.fetchWord (s : State) : Word :=
  wordOfBytes (s.readByte (fetchCell s.pc)) (s.readByte (fetchCell (s.pc + 1)))

/-- A STEP of a halted core (R246): nothing but the answer FAULT. -/
def State.stayHalted (s : State) : State := { s with report := .step .fault false }

/-- Everything before EXECUTE, in the order of R248: either the STEP ends here, or the instruction to run. -/
def State.frontEnd (s : State) : State ⊕ Instr :=
  if s.haltRec.halt then .inl s.stayHalted
  else match fetchFault oobPolicy s.pc with
    | some addr => .inl (s.raise .addressOutOfRange 0x0000 addr)
    | none =>
      match decodeWord s.fetchWord with
      | .error _ => .inl (s.raise .unknownInstruction s.fetchWord 0x0000)
      | .ok i => .inr i

/-- The schedule from its first STEP on. -/
def firstStep : List HostOp → List HostOp
  | [] => []
  | .step inp :: rest => .step inp :: rest
  | _ :: rest => firstStep rest

/-- The state with a word stored high byte first where the next STEP fetches, and with that STEP the host's next request
and the core not halted. -/
def State.placeWord (s : State) (w : Word) : State :=
  let stored := (s.writeByte (fetchCell s.pc) (w.extractLsb' 8 8)).writeByte (fetchCell (s.pc + 1)) (w.extractLsb' 0 8)
  { stored with haltRec := .clear, schedule := firstStep s.schedule }

end Sys2Proof.Machine
end

