-- ==== Sys2Proof/Machine/HostOps.lean ====
section
/-! DEFINITION. The host's operations but STEP (00_scope.md R15): RESET, LOAD, TICK, SNAPSHOT, the TONE output, and which
operation comes next. -/
namespace Sys2Proof.Machine

/-- A timer after one TICK: decremented, floor at 0 (44_keys_timers.md R217). -/
def timerTick (t : Byte) : Byte := if t.toNat > 0 then t - 1 else t

/-- TICK (R217): both timers and RENDER_REQ, nothing else, in every status of the core (R218, R246). -/
def State.tick (s : State) : State := { s with dt := timerTick s.dt, st := timerTick s.st, report := .tick }

/-- LOAD (70_reset_and_hazards.md R275, R276): too long a program is answered ProgramTooLarge and nothing is written;
else the bytes from 0x200 and PC, and nothing else, HALT included (R246). -/
def State.load (s : State) (rom : List Byte) : State :=
  if programFits rom then
    { s with mem := s.mem.writeBytes programOrigin.toNat rom, pc := programOrigin, report := .load true }
  else { s with report := .load false }

/-- RESET (R270) as an operation: the whole core is `State.reset`; the host's own future is not the core's to reset
(log 26). -/
def State.doReset (s : State) : State :=
  { State.reset with schedule := s.schedule, freeIdx := s.freeIdx, report := .reset }

/-- RESET under `RESET_ZERO = false` (R7, R50): only what the source itself fixes is written, PC, the font, the empty
stack and the halt record; `u` supplies every value the source does not state. Not used by `step` (log 29). -/
def State.resetFrom (u : State) : State :=
  { u with pc := programOrigin, sp := 0, haltRec := .clear, report := .reset,
           mem := u.mem.writeBytes fontBase.toNat font }

/-- SNAPSHOT (43_display.md R195, 10_state.md R46): the grid is answered and no state of the core changes. -/
def State.snapshot (s : State) : State := { s with report := .snapshot s.fb.cells }

/-- `TONE = (ST > 0)` (10_state.md R47). -/
def State.tone (s : State) : Bool := decide (s.st.toNat > 0)

/-- The inputs of a STEP the schedule does not name: free values, a fresh draw each time (log 2). -/
def freeInputs (n : Nat) : Inputs := ⟨Config.freeKeys n, Config.freeKeyPending n, Config.freeRnd n⟩

/-- The host's next operation and the state without it: the head of the schedule, and after its end STEPs with free
inputs (log 1, 25). -/
def State.takeOp (s : State) : HostOp × State :=
  match s.schedule with
  | [] => (.step (freeInputs s.freeIdx), { s with freeIdx := s.freeIdx + 1 })
  | op :: rest => (op, { s with schedule := rest })

/-- The inputs are sampled and held for the length of the STEP (R48). -/
def State.sample (s : State) (inp : Inputs) : State := { s with inp := inp }

end Sys2Proof.Machine
end

