-- ==== Sys2Proof/Machine/Step.lean ====
section
/-! DEFINITION. STEP, the machine's step, and the placing of a word for it to fetch. -/
namespace Sys2Proof.Machine

/-- STEP (60_exceptions.md R234): the halt latch, FETCH and DECODE, then EXECUTE. -/
def stepOp (s : State) : Host.Outcome State Fault Refusal :=
  match s.frontEnd with
  | .inl t => .next t
  | .inr i => exec i s

/-- One step of the model is one operation of the core (00_scope.md R15), the one the host requests next (log 1). -/
def step (s : State) : Host.Outcome State Fault Refusal :=
  match s.takeOp with
  | (.reset, u) => .next u.doReset
  | (.load rom, u) => .next (u.load rom)
  | (.step inp, u) => stepOp (u.sample inp)
  | (.tick, u) => .next u.tick
  | (.snapshot, u) => .next u.snapshot

/-- `s` with the instruction whose bits are `w` (bits above `nbits` zero) stored where `step` fetches next, so that
`step` runs it: it stands for the host's LOAD (70_reset_and_hazards.md R275; log 22). -/
def State.withFetchWord (s : State) (nbits w : Nat) : State := s.placeWord (BitVec.ofNat 16 (w % 2 ^ nbits))

end Sys2Proof.Machine
end

