-- ==== Sys2Proof/Safety.lean ====
section
/-! DEFINITION. The words claims are stated in: the invariant of a run, what a STEP leaves unchanged, how it ends. -/
namespace Sys2Proof.Machine

/-! The invariant. -/

/-- What every operation keeps, in a sense that means something on this core: memory is in canonical form; PC and every
stack entry stay in the ranges of 10_state.md R27 and 40_control_flow.md R121; the halt record is zero while HALT is 0
and has a cause while it is 1 (R38). -/
structure State.Inv (s : State) : Prop where
  memWf   : s.mem.wf = true
  pcBound : s.pc.toNat ≤ 0x10FE
  stackBound : ∀ k : Fin 16, s.stack[k].toNat ≤ 0x1000
  running : s.haltRec.halt = false → s.haltRec = HaltRecord.clear
  halted  : s.haltRec.halt = true → s.haltRec.cause ≠ Cause.none

/-! Frames: what is unchanged from `s` to `t`. -/

/-- Every general register but those listed. -/
def RegsSameBut (xs : List Nibble) (s t : State) : Prop := ∀ r : Nibble, r ∉ xs → t.vx r = s.vx r

/-- Every byte of memory. -/
def MemSame (s t : State) : Prop := ∀ a : Addr, t.readByte a = s.readByte a

/-- Every byte of memory but the `count` bytes stored from `base` upwards (`dataAddr` is the address the stores use). -/
def MemSameOutside (base : Addr) (count : Nat) (s t : State) : Prop :=
  ∀ a : Addr, (∀ j, j < count → a ≠ dataAddr base j) → t.readByte a = s.readByte a

/-- Both timers. -/
def TimersSame (s t : State) : Prop := t.dt = s.dt ∧ t.st = s.st

/-- SP and all sixteen slots. -/
def StackSame (s t : State) : Prop := t.sp = s.sp ∧ ∀ k : Fin 16, t.stack[k] = s.stack[k]

/-- All 2048 cells of the framebuffer. -/
def FbSame (s t : State) : Prop := ∀ (r : Fin 32) (c : Fin 64), t.fb.cell r c = s.fb.cell r c

/-- The model's own fields but the report: the sampled inputs and the host's schedule. -/
def HostSideSame (s t : State) : Prop := t.inp = s.inp ∧ t.schedule = s.schedule ∧ t.freeIdx = s.freeIdx

/-- All of the core but the general registers listed, PC and the halt record: I, the timers, the stack, the framebuffer
and memory are unchanged. -/
def OnlyRegsChange (xs : List Nibble) (s t : State) : Prop :=
  RegsSameBut xs s t ∧ t.i = s.i ∧ TimersSame s t ∧ StackSame s t ∧ FbSame s t ∧ MemSame s t

/-! How a STEP ends (00_scope.md R16). -/

/-- Status OK with PC at `pc'`; the halt record and the host's side are unchanged. -/
def EndsOk (pc' : Word) (s t : State) : Prop :=
  t.pc = pc' ∧ t.haltRec = s.haltRec ∧ t.report = .step .ok false ∧ HostSideSame s t

/-- All of the core but PC, the halt record, memory and what is named beside it: the registers, I, the timers, the stack
and the framebuffer are unchanged. -/
def OnlyMemChanges (s t : State) : Prop :=
  RegsSameBut [] s t ∧ t.i = s.i ∧ TimersSame s t ∧ StackSame s t ∧ FbSame s t

/-- Status FAULT, precise (60_exceptions.md R241, R242): the halt record holds the cause, the word, `s.pc` and the address,
and every other piece of the state is unchanged. -/
def EndsInFault (cause : Cause) (instr addr : Word) (s t : State) : Prop :=
  t.haltRec = ⟨true, cause, instr, s.pc, addr⟩ ∧ t.report = .step .fault false ∧ t.pc = s.pc ∧
    OnlyRegsChange [] s t ∧ HostSideSame s t

/-! The word of a row of the opcode map as the encoding function writes it, `match` or'ed with the fields in their places
(30_encoding.md R105). -/

/-- Format A: `match | nnn`. -/
def wordA (m : Word) (nnn : Addr) : Word := m ||| nnn.setWidth 16

/-- Format XK: `match | (x << 8) | kk`. -/
def wordXK (m : Word) (x : Nibble) (kk : Byte) : Word := m ||| (x.setWidth 16 <<< 8) ||| kk.setWidth 16

/-- Formats XY and XYN: `match | (x << 8) | (y << 4) | n`. -/
def wordXYN (m : Word) (x y n : Nibble) : Word :=
  m ||| (x.setWidth 16 <<< 8) ||| (y.setWidth 16 <<< 4) ||| n.setWidth 16

/-- Format X: `match | (x << 8)`. -/
def wordX (m : Word) (x : Nibble) : Word := m ||| (x.setWidth 16 <<< 8)

/-! What is drawn, cell by cell (43_display.md R192, R193). -/

/-- A sprite drawn at (`px`, `py`) has a 1 bit on cell (`r`, `c`): row j and bit offset k of it fall there. -/
def SpriteOn (sprite : List Byte) (px py : Nat) (r : Fin 32) (c : Fin 64) : Prop :=
  ∃ j k, j < sprite.length ∧ k < 8 ∧ r.val = (py + j) % 32 ∧ c.val = (px + k) % 64 ∧
    (sprite.getD j 0x00).getLsbD (7 - k) = true

/-- The next STEP of `s` may fetch: the core is not halted and both bytes exist (60_exceptions.md R234). -/
def CanFetch (s : State) : Prop := s.haltRec.halt = false ∧ s.pc.toNat ≤ 0x0FFE

end Sys2Proof.Machine
end

