-- ==== Sys2Proof/Certificates/Slice0/Obligations.lean ====
section
/-! DEFINITION. The statements for the provers. Each docstring names the rules of spec/ it formalises; where a clause rests
on a decision of the spec's own (D<n>) or on a choice of this model, it names the log entry. -/
open Sys2Proof Sys2Proof.Machine

/-! Encoding. -/

/-- R105 with R92, R94, R96: the decoder reads back every instruction, with every operand, from its word and its bytes. -/
def Obligations.DecodeOfEncodeIsTheInstruction : Prop :=
  ∀ i : Instr, decodeWord (encode i) = .ok i ∧ ∀ rest, decodeBytes (encodeBytes i ++ rest) = .ok (i, rest)

/-- R99, R100, R105: a word that decodes is the word of its instruction; no bit is dropped, the ignored y of SHR and SHL
included. -/
def Obligations.EncodeOfDecodeIsTheWord : Prop := ∀ (w : Word) (i : Instr), decodeWord w = .ok i → encode i = w

/-- R98 (its exact matching by D14, log 28): a word decodes exactly when R98's table does not list it; the refusal names
the word; a STEP that fetches one takes UnknownInstruction with the raw word and `fa`. -/
def Obligations.UnknownWordsAreExactlyTheIllegalOnes : Prop :=
  (∀ w : Word, (∃ i, decodeWord w = .ok i) ↔ wordLegal w = true) ∧
  (∀ w : Word, wordLegal w = false → decodeWord w = .error (.unknownInstruction w)) ∧
  (∀ s : State, CanFetch s → wordLegal s.fetchWord = false →
    ∃ t, stepOp s = .next t ∧ EndsInFault .unknownInstruction s.fetchWord 0x0000 s t)

/-- R96: "the rows are disjoint": a word that decodes matches its instruction's row of match and mask and no other, and a
word that does not decode matches none. -/
def Obligations.EachWordMatchesItsOneOpcodeRow : Prop :=
  (∀ (w : Word) (i : Instr), decodeWord w = .ok i →
    (List.range 34).filter (fun k => (opcodeRows[k]?).any (rowMatches w)) = [rowOf i]) ∧
  (∀ (w : Word) (e : DecodeError), decodeWord w = .error e →
    (List.range 34).filter (fun k => (opcodeRows[k]?).any (rowMatches w)) = [])

/-- R96, R91: one word of each family, written from the spec's patterns, decodes to what it stands for. -/
def Obligations.SampleWordsDecode : Prop :=
  decodeWord 0x00E0 = .ok .cls ∧ decodeWord 0x00EE = .ok .ret ∧ decodeWord 0x1234 = .ok (.jp 0x234) ∧
  decodeWord 0x2300 = .ok (.call 0x300) ∧ decodeWord 0x332A = .ok (.seKk 0x3 0x2A) ∧
  decodeWord 0x432B = .ok (.sneKk 0x3 0x2B) ∧ decodeWord 0x5120 = .ok (.seVy 0x1 0x2) ∧
  decodeWord 0x6103 = .ok (.ldKk 0x1 0x03) ∧ decodeWord 0x7220 = .ok (.addKk 0x2 0x20) ∧
  decodeWord 0x8014 = .ok (.addVy 0x0 0x1) ∧ decodeWord 0x9120 = .ok (.sneVy 0x1 0x2) ∧
  decodeWord 0xA200 = .ok (.ldI 0x200) ∧ decodeWord 0xBFFF = .ok (.jpV0 0xFFF) ∧
  decodeWord 0xC00F = .ok (.rnd 0x0 0x0F) ∧ decodeWord 0xD12A = .ok (.drw 0x1 0x2 0xA) ∧
  decodeWord 0xE19E = .ok (.skp 0x1) ∧ decodeWord 0xF265 = .ok (.ldVxMem 0x2) ∧
  decodeWord 0x8128 = .error (.unknownInstruction 0x8128)

/-! The step. -/

/-- R231, R232, R234, R62: when the core is running and the two bytes at PC decode to `i`, the step the host requests is
`exec i` at that state; around it the model takes the request off the schedule and samples the inputs, which are free
values when no request is listed (log 1, 2). -/
def Obligations.StepRunsTheDecodedInstruction : Prop :=
  ∀ (s : State) (i : Instr), s.haltRec.halt = false → s.pc.toNat ≤ 0x0FFE →
    decodeBytes [s.mem.read s.pc.toNat, s.mem.read (s.pc.toNat + 1)] = .ok (i, []) →
    (∀ inp rest, s.schedule = .step inp :: rest → step s = exec i { s with schedule := rest, inp := inp }) ∧
    (s.schedule = [] → step s = exec i { s with freeIdx := s.freeIdx + 1, inp := freeInputs s.freeIdx })

/-- 20_memory.md section 4 (R67 by decision D9, log 10): a fetch past 0x0FFE faults before anything is read, whatever
memory holds. -/
def Obligations.FetchPastMemoryFaults : Prop :=
  ∀ s : State, s.haltRec.halt = false → s.pc.toNat > 0x0FFE →
    ∃ t, stepOp s = .next t ∧
      EndsInFault .addressOutOfRange 0x0000 (if s.pc.toNat = 0x0FFF then 0x1000 else s.pc) s t

/-- 60_exceptions.md section 2 (R246 by decision D27, log 21): on a halted core a STEP changes nothing and answers FAULT,
wherever PC is; TICK counts; SNAPSHOT answers; LOAD writes but does not clear HALT; RESET clears it. -/
def Obligations.HaltedCoreStaysHaltedUntilReset : Prop :=
  ∀ s : State, s.haltRec.halt = true →
    (∃ t, stepOp s = .next t ∧ t.haltRec = s.haltRec ∧ t.report = .step .fault false ∧ t.pc = s.pc ∧
      OnlyRegsChange [] s t ∧ HostSideSame s t) ∧
    (∀ rest, s.schedule = .tick :: rest →
      ∃ t, step s = .next t ∧ t.haltRec = s.haltRec ∧ t.dt.toNat = s.dt.toNat - 1 ∧ t.st.toNat = s.st.toNat - 1) ∧
    (∀ rest, s.schedule = .snapshot :: rest →
      ∃ t, step s = .next t ∧ t.haltRec = s.haltRec ∧ t.report = .snapshot s.fb.cells) ∧
    (∀ rom rest, s.schedule = .load rom :: rest → rom.length ≤ 3584 →
      ∃ t, step s = .next t ∧ t.haltRec = s.haltRec ∧ t.pc = 0x0200 ∧
        ∀ j, j < rom.length → t.mem.read (0x200 + j) = rom.getD j 0x00) ∧
    (∀ rest, s.schedule = .reset :: rest → ∃ t, step s = .next t ∧ t.haltRec = HaltRecord.clear)

/-- 60_exceptions.md section 2 (R241 by decisions D15, D16, log 19): a STEP of a running core that ends halted changed
nothing but the halt record; EPC is `fa`; EINSTR is the fetched word, or 0x0000 where the fetch itself faulted. -/
def Obligations.FaultsArePrecise : Prop :=
  ∀ s t : State, s.haltRec.halt = false → stepOp s = .next t → t.haltRec.halt = true →
    ∃ cause addr, cause ≠ Cause.none ∧
      EndsInFault cause (if s.pc.toNat > 0x0FFE then 0x0000 else s.fetchWord) addr s t

/-- R243, R242: which instruction raises what in EXECUTE, and on what condition. -/
def Obligations.FaultCausesByInstruction : Prop :=
  ∀ (i : Instr) (s t : State), s.haltRec.halt = false → exec i s = .next t → t.haltRec.halt = true →
    (t.haltRec.cause = .stackOverflow ∧ (∃ nnn, i = .call nnn) ∧ s.sp.val = 16 ∧ t.haltRec.eaddr = 0x0000) ∨
    (t.haltRec.cause = .stackUnderflow ∧ i = .ret ∧ s.sp.val = 0 ∧ t.haltRec.eaddr = 0x0000) ∨
    (t.haltRec.cause = .addressOutOfRange ∧ t.haltRec.eaddr = 0x1000 ∧
      ((∃ x y n, i = .drw x y n ∧ n.toNat ≥ 1 ∧ s.i.toNat + (n.toNat - 1) > 0xFFF) ∨
       (∃ x, i = .ldBVx x ∧ s.i.toNat + 2 > 0xFFF) ∨
       (∃ x, (i = .ldMemVx x ∨ i = .ldVxMem x) ∧ s.i.toNat + x.toNat > 0xFFF)))

/-- R16, R244: every operation answers; the machine never stops the model, a fault being a halted next state (log 4). -/
def Obligations.EveryStepAnswersANextState : Prop := ∀ s : State, ∃ t, step s = .next t

/-- R27, R30, R38, R121 and log 24: whatever the host requests next, the invariant is kept. -/
def Obligations.StepKeepsTheInvariant : Prop := ∀ s t : State, s.Inv → step s = .next t → t.Inv

/-- R50: the state after RESET meets the invariant. -/
def Obligations.ResetMeetsTheInvariant : Prop := State.reset.Inv

/-- 10_state.md section 12 and 70_reset_and_hazards.md section 1: PC is 0x0200 and the font is in memory (the source); the
zeros are the spec's decision D2 (log 5), the font's place and bytes D3 and D4 (log 6, 7). RESET requested by the host
leaves the same core. -/
def Obligations.ResetLeavesTheStatedValues : Prop :=
  (State.reset.pc = 0x0200 ∧ (∀ r, State.reset.vx r = 0x00) ∧ State.reset.i = 0x000 ∧ State.reset.dt = 0x00 ∧
    State.reset.st = 0x00 ∧ State.reset.sp.val = 0 ∧ (∀ k : Fin 16, State.reset.stack[k] = 0x0000) ∧
    (∀ r c, State.reset.fb.cell r c = false) ∧ State.reset.haltRec = HaltRecord.clear ∧
    State.reset.tone = false ∧
    ∀ a : Addr, State.reset.readByte a =
      if fontBase.toNat ≤ a.toNat ∧ a.toNat < fontBase.toNat + 80 then font.getD (a.toNat - fontBase.toNat) 0x00
      else 0x00) ∧
  ∀ (s : State) (rest : List HostOp), s.schedule = .reset :: rest →
    ∃ t, step s = .next t ∧ t.pc = 0x0200 ∧ t.haltRec = HaltRecord.clear ∧ t.report = .reset ∧
      OnlyRegsChange [] State.reset t ∧ t.schedule = rest

/-- 00_scope.md section 3, `RESET_ZERO = false` (log 29): from any values of what the source does not state, RESET leaves
PC, the font, the empty stack and the cleared halt record, and leaves every other value as it was supplied. -/
def Obligations.ResetWithoutZeroKeepsTheRest : Prop :=
  ∀ u : State, u.resetFrom.pc = 0x0200 ∧ u.resetFrom.sp.val = 0 ∧ u.resetFrom.haltRec = HaltRecord.clear ∧
    (∀ a : Addr, u.resetFrom.readByte a =
      if fontBase.toNat ≤ a.toNat ∧ a.toNat < fontBase.toNat + 80 then font.getD (a.toNat - fontBase.toNat) 0x00
      else u.readByte a) ∧
    RegsSameBut [] u u.resetFrom ∧ u.resetFrom.i = u.i ∧ TimersSame u u.resetFrom ∧
    (∀ k : Fin 16, u.resetFrom.stack[k] = u.stack[k]) ∧ FbSame u u.resetFrom

/-! Whole-machine rules, over every instruction. -/

/-- R29: no instruction but CALL and RET reads or writes SP or a slot, and no memory address reaches them. -/
def Obligations.StackReachedOnlyByCallAndRet : Prop :=
  (∀ (i : Instr) (s : State) (sp' : Fin 17) (stack' : Vector Word 16), i ≠ .ret → (∀ nnn, i ≠ .call nnn) →
    ∃ t, exec i s = .next t ∧ t.sp = s.sp ∧ t.stack = s.stack ∧
      exec i { s with sp := sp', stack := stack' } = .next { t with sp := sp', stack := stack' }) ∧
  (∀ (s : State) (a : Addr) (b : Byte), (s.writeByte a b).sp = s.sp ∧ (s.writeByte a b).stack = s.stack) ∧
  (∀ (s : State) (a : Addr) (sp' : Fin 17) (stack' : Vector Word 16),
    { s with sp := sp', stack := stack' }.readByte a = s.readByte a)

/-- R32: the framebuffer is written only by CLS (all cells off), DRW (the XOR of the sprite's rows) and RESET; no other
instruction reads a cell, and DRW reads cells only for the collision flag; no memory address reaches it; cell (r, c)
stands at index 64 r + c of the snapshot. -/
def Obligations.FramebufferReachedOnlyByClsAndDrw : Prop :=
  (∀ (i : Instr) (s : State) (fb' : Framebuffer), i ≠ .cls → (∀ x y n, i ≠ .drw x y n) →
    ∃ t, exec i s = .next t ∧ t.fb = s.fb ∧ exec i { s with fb := fb' } = .next { t with fb := fb' }) ∧
  (∀ s : State, ∃ t, exec .cls s = .next t ∧ ∀ r c, t.fb.cell r c = false) ∧
  (∀ (x y n : Nibble) (s t : State), exec (.drw x y n) s = .next t → t.report = .step .ok false →
    ∀ r c, t.fb.cell r c = true ↔
      Xor (s.fb.cell r c = true) (SpriteOn (s.readBlock n.toNat) (s.vx x).toNat (s.vx y).toNat r c)) ∧
  (∀ (x y n : Nibble) (s : State) (fb' : Framebuffer), ∃ t t', exec (.drw x y n) s = .next t ∧
    exec (.drw x y n) { s with fb := fb' } = .next t' ∧ { t' with fb := t.fb, v := t.v } = t ∧
    RegsSameBut [vf] t t') ∧
  (∀ (s t : State) (op : HostOp) (rest : List HostOp), s.schedule = op :: rest →
    op = .tick ∨ op = .snapshot ∨ (∃ rom, op = .load rom) → step s = .next t → t.fb = s.fb) ∧
  (∀ (s t : State) (rest : List HostOp), s.schedule = .reset :: rest → step s = .next t → t.fb = State.reset.fb) ∧
  (∀ (s : State) (a : Addr) (b : Byte) (fb' : Framebuffer),
    (s.writeByte a b).fb = s.fb ∧ { s with fb := fb' }.readByte a = s.readByte a) ∧
  (∀ (fb : Framebuffer) (r : Fin 32) (c : Fin 64),
    fb.cells.length = 2048 ∧ fb.cells[64 * r.val + c.val]? = some (fb.cell r c))

/-- R61, R75: no instruction but LD B and LD [I] writes a byte of memory; TICK and SNAPSHOT write none. -/
def Obligations.MemoryWrittenOnlyByStores : Prop :=
  (∀ (i : Instr) (s t : State), (∀ x, i ≠ .ldBVx x) → (∀ x, i ≠ .ldMemVx x) → exec i s = .next t → MemSame s t) ∧
  (∀ (s t : State) (op : HostOp) (rest : List HostOp), s.schedule = op :: rest → op = .tick ∨ op = .snapshot →
    step s = .next t → MemSame s t)

/-- R28: DT is read by Fx07 and written by Fx15 only, ST is written by Fx18 only and read by no instruction, TICK
decrements both with floor 0, and no memory address reaches them. -/
def Obligations.TimersReachedOnlyByTheirInstructions : Prop :=
  (∀ (i : Instr) (s : State) (dt' : Byte), (∀ x, i ≠ .ldVxDt x) → (∀ x, i ≠ .ldDtVx x) →
    ∃ t, exec i s = .next t ∧ t.dt = s.dt ∧ exec i { s with dt := dt' } = .next { t with dt := dt' }) ∧
  (∀ (i : Instr) (s : State) (st' : Byte), (∀ x, i ≠ .ldStVx x) →
    ∃ t, exec i s = .next t ∧ t.st = s.st ∧ exec i { s with st := st' } = .next { t with st := st' }) ∧
  (∀ (x : Nibble) (s : State), ∃ t, exec (.ldVxDt x) s = .next t ∧ t.vx x = s.dt ∧ t.dt = s.dt) ∧
  (∀ (x : Nibble) (s : State), ∃ t, exec (.ldDtVx x) s = .next t ∧ t.dt = s.vx x) ∧
  (∀ (x : Nibble) (s : State), ∃ t, exec (.ldStVx x) s = .next t ∧ t.st = s.vx x) ∧
  (∀ (s : State) (rest : List HostOp), s.schedule = .tick :: rest →
    ∃ t, step s = .next t ∧ t.dt.toNat = s.dt.toNat - 1 ∧ t.st.toNat = s.st.toNat - 1) ∧
  (∀ (s : State) (a : Addr) (b dt' st' : Byte), (s.writeByte a b).dt = s.dt ∧ (s.writeByte a b).st = s.st ∧
    { s with dt := dt', st := st' }.readByte a = s.readByte a)

/-- 10_state.md section 3, 00_scope.md section 5 (R24, R19 by decision D11, log 14): I is written by Annn, Fx1E and Fx29
only. -/
def Obligations.IndexWrittenOnlyByItsInstructions : Prop :=
  ∀ (i : Instr) (s t : State), exec i s = .next t → t.i ≠ s.i →
    (∃ nnn, i = .ldI nnn) ∨ (∃ x, i = .addIVx x) ∨ (∃ x, i = .ldFVx x)

/-- 10_state.md section 9 (R36 by decisions D8, D11, log 13, 14): VF changes only by a flag-writing instruction, which
leaves 0x00 or 0x01 in it, or by an instruction that names VF as its destination. -/
def Obligations.FlagRegisterWrittenOnlyAsSaid : Prop :=
  ∀ (i : Instr) (s t : State), exec i s = .next t → t.vx vf ≠ s.vx vf →
    (((∃ x y, i = .addVy x y ∨ i = .subVy x y ∨ i = .shr x y ∨ i = .subnVy x y ∨ i = .shl x y) ∨
        (∃ x y n, i = .drw x y n)) ∧ (t.vx vf = 0x00 ∨ t.vx vf = 0x01)) ∨
    (∃ kk, i = .ldKk vf kk ∨ i = .addKk vf kk ∨ i = .rnd vf kk) ∨
    (∃ y, i = .ldVy vf y ∨ i = .orVy vf y ∨ i = .andVy vf y ∨ i = .xorVy vf y) ∨
    i = .ldVxDt vf ∨ i = .ldVxK vf ∨ i = .ldVxMem vf

/-- 10_state.md section 11 (R43; R44, R45 by decisions D17, D18, log 2, 32): KEYS matters to SKP and SKNP only,
KEY_PENDING to LD Vx,K only, RND to RND only. -/
def Obligations.InputsIgnoredByAllOthers : Prop :=
  (∀ (i : Instr) (s : State) (k : BitVec 16), (∀ x, i ≠ .skp x) → (∀ x, i ≠ .sknp x) →
    ∃ t, exec i s = .next t ∧
      exec i { s with inp := { s.inp with keys := k } } = .next { t with inp := { s.inp with keys := k } }) ∧
  (∀ (i : Instr) (s : State) (p : Option Nibble), (∀ x, i ≠ .ldVxK x) →
    ∃ t, exec i s = .next t ∧
      exec i { s with inp := { s.inp with keyPending := p } } = .next { t with inp := { s.inp with keyPending := p } }) ∧
  (∀ (i : Instr) (s : State) (b : Byte), (∀ x kk, i ≠ .rnd x kk) →
    ∃ t, exec i s = .next t ∧
      exec i { s with inp := { s.inp with rnd := b } } = .next { t with inp := { s.inp with rnd := b } })

/-! Control transfer. -/

/-- R121: the word 0x00EE is RET. With an empty stack it raises StackUnderflow before anything is written, so SP is 0 and
PC is `fa`; else it loads PC from the top entry, then decrements SP; the slots keep their values, nothing else changes, and
what is popped in a state that meets the invariant is at most 0x1000. -/
def Obligations.RetPopsOrUnderflows : Prop :=
  decodeWord 0x00EE = .ok .ret ∧
  (∀ s : State, s.sp.val = 0 → ∃ t, exec .ret s = .next t ∧ t.haltRec.cause = .stackUnderflow ∧
    t.report = .step .fault false ∧ t.pc = s.pc ∧ OnlyRegsChange [] s t ∧ HostSideSame s t) ∧
  (∀ (s : State) (k : Fin 16), s.sp.val = k.val + 1 →
    ∃ t, exec .ret s = .next t ∧ EndsOk s.stack[k] s t ∧ t.sp.val = k.val ∧ (∀ j : Fin 16, t.stack[j] = s.stack[j]) ∧
      RegsSameBut [] s t ∧ t.i = s.i ∧ TimersSame s t ∧ FbSame s t ∧ MemSame s t ∧
      (s.Inv → t.pc.toNat ≤ 0x1000))

/-- R122: `0x1000 | nnn` is JP nnn; it sets PC to the zero-extended nnn, for every nnn, and changes nothing else. -/
def Obligations.JumpSetsPc : Prop :=
  (∀ nnn : Addr, decodeWord (wordA 0x1000 nnn) = .ok (.jp nnn)) ∧
  ∀ (nnn : Addr) (s : State), ∃ t, exec (.jp nnn) s = .next t ∧ EndsOk (nnn.setWidth 16) s t ∧
    t.pc.toNat = nnn.toNat ∧ OnlyRegsChange [] s t

/-- R123: `0x2000 | nnn` is CALL nnn. With a full stack it raises StackOverflow before anything is written, so SP is 16,
all sixteen entries are intact and PC is `fa`; else it increments SP, stores `fa + 2` in the new top slot and jumps; the
other slots keep their values and nothing else changes. -/
def Obligations.CallPushesOrOverflows : Prop :=
  (∀ nnn : Addr, decodeWord (wordA 0x2000 nnn) = .ok (.call nnn)) ∧
  (∀ (nnn : Addr) (s : State), s.sp.val = 16 → ∃ t, exec (.call nnn) s = .next t ∧
    t.haltRec.cause = .stackOverflow ∧ t.report = .step .fault false ∧ t.pc = s.pc ∧ OnlyRegsChange [] s t ∧
    HostSideSame s t) ∧
  (∀ (nnn : Addr) (s : State) (k : Fin 16), s.sp.val = k.val →
    ∃ t, exec (.call nnn) s = .next t ∧ EndsOk (nnn.setWidth 16) s t ∧ t.sp.val = k.val + 1 ∧
      t.stack[k] = s.pc + 2 ∧ (∀ j : Fin 16, j ≠ k → t.stack[j] = s.stack[j]) ∧
      RegsSameBut [] s t ∧ t.i = s.i ∧ TimersSame s t ∧ FbSame s t ∧ MemSame s t)

/-- 40_control_flow.md section 2 (R124, not masked by decision D24, log 33): PC is the exact sum of nnn and V0, and nothing
else changes. -/
def Obligations.IndexedJumpSetsPcToTheFullSum : Prop :=
  ∀ (nnn : Addr) (s : State), ∃ t, exec (.jpV0 nnn) s = .next t ∧ EndsOk t.pc s t ∧
    t.pc.toNat = nnn.toNat + (s.vx 0x0).toNat ∧ OnlyRegsChange [] s t

/-- R125, R126, R127, R128: the words of the four compare-and-skip instructions (a low nibble other than 0 is no instruction
in families 5 and 9); they leave `fa + 4` or `fa + 2` in PC and change nothing else. -/
def Obligations.CompareSkipsSetPc : Prop :=
  (∀ (x : Nibble) (kk : Byte), decodeWord (wordXK 0x3000 x kk) = .ok (.seKk x kk) ∧
    decodeWord (wordXK 0x4000 x kk) = .ok (.sneKk x kk)) ∧
  (∀ x y : Nibble, decodeWord (wordXYN 0x5000 x y 0x0) = .ok (.seVy x y) ∧
    decodeWord (wordXYN 0x9000 x y 0x0) = .ok (.sneVy x y)) ∧
  (∀ x y n : Nibble, n ≠ 0x0 →
    decodeWord (wordXYN 0x5000 x y n) = .error (.unknownInstruction (wordXYN 0x5000 x y n)) ∧
    decodeWord (wordXYN 0x9000 x y n) = .error (.unknownInstruction (wordXYN 0x9000 x y n))) ∧
  (∀ (x : Nibble) (kk : Byte) (s : State), ∃ t, exec (.seKk x kk) s = .next t ∧
    EndsOk (if s.vx x = kk then s.pc + 4 else s.pc + 2) s t ∧ OnlyRegsChange [] s t) ∧
  (∀ (x : Nibble) (kk : Byte) (s : State), ∃ t, exec (.sneKk x kk) s = .next t ∧
    EndsOk (if s.vx x ≠ kk then s.pc + 4 else s.pc + 2) s t ∧ OnlyRegsChange [] s t) ∧
  (∀ (x y : Nibble) (s : State), ∃ t, exec (.seVy x y) s = .next t ∧
    EndsOk (if s.vx x = s.vx y then s.pc + 4 else s.pc + 2) s t ∧ OnlyRegsChange [] s t) ∧
  (∀ (x y : Nibble) (s : State), ∃ t, exec (.sneVy x y) s = .next t ∧
    EndsOk (if s.vx x ≠ s.vx y then s.pc + 4 else s.pc + 2) s t ∧ OnlyRegsChange [] s t)

/-- 44_keys_timers.md section 2 (R211, R212; the low nibble by decision D13, log 16): SKP skips when key `Vx mod 16` is
down, SKNP when it is up, and nothing else changes. -/
def Obligations.KeySkipsSetPc : Prop :=
  (∀ (x : Nibble) (s : State), ∃ t, exec (.skp x) s = .next t ∧
    EndsOk (if s.inp.keys.getLsbD ((s.vx x).toNat % 16) = true then s.pc + 4 else s.pc + 2) s t ∧
    OnlyRegsChange [] s t) ∧
  (∀ (x : Nibble) (s : State), ∃ t, exec (.sknp x) s = .next t ∧
    EndsOk (if s.inp.keys.getLsbD ((s.vx x).toNat % 16) = false then s.pc + 4 else s.pc + 2) s t ∧
    OnlyRegsChange [] s t)

/-- R121 and R123 together (95_test_vectors.md T-S3): a RET met with the stack a CALL left returns to the instruction after
the CALL, with SP as before it, whatever else changed in between. -/
def Obligations.RetAfterCallReturns : Prop :=
  ∀ (nnn : Addr) (s t u : State), s.sp.val < 16 → exec (.call nnn) s = .next t → u.sp = t.sp → u.stack = t.stack →
    ∃ w, exec .ret u = .next w ∧ w.pc = s.pc + 2 ∧ w.sp = s.sp ∧ w.report = .step .ok false

/-! Load, ALU, random. -/

/-- R147, R148, R149: the words of LD Vx,kk, ADD Vx,kk and LD Vx,Vy; they write Vx and nothing else (ADD wraps and sets no
flag, VF being written only as the destination), and 6xkk then 7xkk leaves `(kk + kk) mod 256` in Vx. -/
def Obligations.LoadsAndAddImmediate : Prop :=
  (∀ (x : Nibble) (kk : Byte), decodeWord (wordXK 0x6000 x kk) = .ok (.ldKk x kk) ∧
    decodeWord (wordXK 0x7000 x kk) = .ok (.addKk x kk)) ∧
  (∀ x y : Nibble, decodeWord (wordXYN 0x8000 x y 0x0) = .ok (.ldVy x y)) ∧
  (∀ (x : Nibble) (kk : Byte) (s : State), ∃ t u, exec (.ldKk x kk) s = .next t ∧ exec (.addKk x kk) t = .next u ∧
    (u.vx x).toNat = (kk.toNat + kk.toNat) % 256) ∧
  (∀ (x : Nibble) (kk : Byte) (s : State), ∃ t, exec (.ldKk x kk) s = .next t ∧ EndsOk (s.pc + 2) s t ∧
    t.vx x = kk ∧ OnlyRegsChange [x] s t) ∧
  (∀ (x : Nibble) (kk : Byte) (s : State), ∃ t, exec (.addKk x kk) s = .next t ∧ EndsOk (s.pc + 2) s t ∧
    (t.vx x).toNat = ((s.vx x).toNat + kk.toNat) % 256 ∧ OnlyRegsChange [x] s t) ∧
  (∀ (x y : Nibble) (s : State), ∃ t, exec (.ldVy x y) s = .next t ∧ EndsOk (s.pc + 2) s t ∧
    t.vx x = s.vx y ∧ OnlyRegsChange [x] s t)

/-- 41_load_alu.md section 4 (R150, R151, R152; VF left alone by decision D11, log 14): the three bitwise operations, bit
by bit, write Vx and nothing else. -/
def Obligations.BitwiseOperations : Prop :=
  (∀ (x y : Nibble) (s : State), ∃ t, exec (.orVy x y) s = .next t ∧ EndsOk (s.pc + 2) s t ∧
    (∀ k, k < 8 → (t.vx x).getLsbD k = ((s.vx x).getLsbD k || (s.vx y).getLsbD k)) ∧ OnlyRegsChange [x] s t) ∧
  (∀ (x y : Nibble) (s : State), ∃ t, exec (.andVy x y) s = .next t ∧ EndsOk (s.pc + 2) s t ∧
    (∀ k, k < 8 → (t.vx x).getLsbD k = ((s.vx x).getLsbD k && (s.vx y).getLsbD k)) ∧ OnlyRegsChange [x] s t) ∧
  (∀ (x y : Nibble) (s : State), ∃ t, exec (.xorVy x y) s = .next t ∧ EndsOk (s.pc + 2) s t ∧
    (∀ k, k < 8 → (t.vx x).getLsbD k = ((s.vx x).getLsbD k ^^ (s.vx y).getLsbD k)) ∧ OnlyRegsChange [x] s t)

/-- 41_load_alu.md sections 1 and 4 (R153; the flag written last by decision D8, log 13): Vx is the sum modulo 256 and VF
is 1 exactly when the unsigned sum of the old values exceeds 255, for every x and y; where x = F the flag stands. -/
def Obligations.AddSetsSumAndCarry : Prop :=
  ∀ (x y : Nibble) (s : State), ∃ t, exec (.addVy x y) s = .next t ∧ EndsOk (s.pc + 2) s t ∧
    (x ≠ vf → (t.vx x).toNat = ((s.vx x).toNat + (s.vx y).toNat) % 256) ∧
    (t.vx vf).toNat = (if (s.vx x).toNat + (s.vx y).toNat > 255 then 1 else 0) ∧ OnlyRegsChange [x, vf] s t

/-- 41_load_alu.md sections 1 and 4 (R154, R156; `>=` by decision D7, log 9; the flag last by D8, log 13): SUB and SUBN
leave the difference modulo 256, and VF is 1 exactly when no borrow occurred, equal operands included. -/
def Obligations.SubtractionsSetDifferenceAndNotBorrow : Prop :=
  (∀ (x y : Nibble) (s : State), ∃ t, exec (.subVy x y) s = .next t ∧ EndsOk (s.pc + 2) s t ∧
    (x ≠ vf → (t.vx x).toNat = ((s.vx x).toNat + 256 - (s.vx y).toNat) % 256) ∧
    (t.vx vf).toNat = (if (s.vx x).toNat ≥ (s.vx y).toNat then 1 else 0) ∧ OnlyRegsChange [x, vf] s t) ∧
  (∀ (x y : Nibble) (s : State), ∃ t, exec (.subnVy x y) s = .next t ∧ EndsOk (s.pc + 2) s t ∧
    (x ≠ vf → (t.vx x).toNat = ((s.vx y).toNat + 256 - (s.vx x).toNat) % 256) ∧
    (t.vx vf).toNat = (if (s.vx y).toNat ≥ (s.vx x).toNat then 1 else 0) ∧ OnlyRegsChange [x, vf] s t)

/-- 41_load_alu.md sections 1 and 4 (R155, R157; Vx shifted in place by decision D6, log 8; the flag last by D8, log 13):
SHR halves Vx with the remainder in VF, SHL doubles it modulo 256 with the old bit 7 in VF, whatever y is. -/
def Obligations.ShiftsMoveOneBitIntoTheFlag : Prop :=
  (∀ (x y : Nibble) (s : State), ∃ t, exec (.shr x y) s = .next t ∧ EndsOk (s.pc + 2) s t ∧
    (x ≠ vf → (t.vx x).toNat = (s.vx x).toNat / 2) ∧ (t.vx vf).toNat = (s.vx x).toNat % 2 ∧
    OnlyRegsChange [x, vf] s t) ∧
  (∀ (x y : Nibble) (s : State), ∃ t, exec (.shl x y) s = .next t ∧ EndsOk (s.pc + 2) s t ∧
    (x ≠ vf → (t.vx x).toNat = 2 * (s.vx x).toNat % 256) ∧ (t.vx vf).toNat = (s.vx x).toNat / 128 ∧
    OnlyRegsChange [x, vf] s t)

/-- 41_load_alu.md section 2 (R145, which the spec derives from R141 and R149 to R157; log 13): one register as both
operands, x not F. -/
def Obligations.SameRegisterAsBothOperands : Prop :=
  ∀ (x : Nibble) (s : State), x ≠ vf →
    (∃ t, exec (.ldVy x x) s = .next t ∧ t.vx x = s.vx x ∧ t.vx vf = s.vx vf) ∧
    (∃ t, exec (.orVy x x) s = .next t ∧ t.vx x = s.vx x ∧ t.vx vf = s.vx vf) ∧
    (∃ t, exec (.andVy x x) s = .next t ∧ t.vx x = s.vx x ∧ t.vx vf = s.vx vf) ∧
    (∃ t, exec (.xorVy x x) s = .next t ∧ t.vx x = 0x00 ∧ t.vx vf = s.vx vf) ∧
    (∃ t, exec (.addVy x x) s = .next t ∧ (t.vx x).toNat = 2 * (s.vx x).toNat % 256 ∧
      (t.vx vf).toNat = if (s.vx x).toNat ≥ 128 then 1 else 0) ∧
    (∃ t, exec (.subVy x x) s = .next t ∧ t.vx x = 0x00 ∧ t.vx vf = 0x01) ∧
    (∃ t, exec (.subnVy x x) s = .next t ∧ t.vx x = 0x00 ∧ t.vx vf = 0x01)

/-- 41_load_alu.md section 5 (R158; the draw is a free input by decision D18, log 2): Vx is this STEP's draw masked by kk,
nothing else changes, and the values some draw gives are exactly those whose set bits are a subset of kk's. -/
def Obligations.RandomIsTheDrawMasked : Prop :=
  (∀ (x : Nibble) (kk : Byte) (s : State), ∃ t, exec (.rnd x kk) s = .next t ∧ EndsOk (s.pc + 2) s t ∧
    (∀ k, k < 8 → (t.vx x).getLsbD k = (s.inp.rnd.getLsbD k && kk.getLsbD k)) ∧ OnlyRegsChange [x] s t) ∧
  (∀ (x : Nibble) (kk b : Byte) (s : State),
    (∃ r t, exec (.rnd x kk) { s with inp := { s.inp with rnd := r } } = .next t ∧ t.vx x = b) ↔
      ∀ k, k < 8 → b.getLsbD k = true → kk.getLsbD k = true)

/-! Index register and memory. -/

/-- R171: `0xA000 | nnn` is LD I, nnn; it sets I to nnn, for every nnn, and changes nothing else. -/
def Obligations.LoadIndexImmediate : Prop :=
  (∀ nnn : Addr, decodeWord (wordA 0xA000 nnn) = .ok (.ldI nnn)) ∧
  ∀ (nnn : Addr) (s : State), ∃ t, exec (.ldI nnn) s = .next t ∧ EndsOk (s.pc + 2) s t ∧ t.i = nnn ∧
    RegsSameBut [] s t ∧ TimersSame s t ∧ StackSame s t ∧ FbSame s t ∧ MemSame s t

/-- 42_index_memory.md section 2 (R172 without a flag by decision D11, log 14; R173 with FONT_BASE and the low nibble by
D3, D12, log 6, 15): ADD I adds modulo 4096; LD F gives the glyph address of `Vx mod 16`; nothing else changes. -/
def Obligations.AddToIndexAndGlyphAddress : Prop :=
  (∀ (x : Nibble) (s : State), ∃ t, exec (.addIVx x) s = .next t ∧ EndsOk (s.pc + 2) s t ∧
    t.i.toNat = (s.i.toNat + (s.vx x).toNat) % 4096 ∧
    RegsSameBut [] s t ∧ TimersSame s t ∧ StackSame s t ∧ FbSame s t ∧ MemSame s t) ∧
  (∀ (x : Nibble) (s : State), ∃ t, exec (.ldFVx x) s = .next t ∧ EndsOk (s.pc + 2) s t ∧
    t.i.toNat = fontBase.toNat + 5 * ((s.vx x).toNat % 16) ∧
    RegsSameBut [] s t ∧ TimersSame s t ∧ StackSame s t ∧ FbSame s t ∧ MemSame s t)

/-- 42_index_memory.md section 3 (R174; the range fault by decision D9, log 10; I left alone by D11, log 14): the three
digits at I, I + 1, I + 2, every other byte and every register as before; past 0xFFF the fault, with nothing written. -/
def Obligations.BcdStoresThreeDigitsOrFaults : Prop :=
  (∀ (x : Nibble) (s : State), s.i.toNat + 2 ≤ 0xFFF → ∃ t, exec (.ldBVx x) s = .next t ∧ EndsOk (s.pc + 2) s t ∧
    (t.readByte (dataAddr s.i 0)).toNat = (s.vx x).toNat / 100 ∧
    (t.readByte (dataAddr s.i 1)).toNat = (s.vx x).toNat / 10 % 10 ∧
    (t.readByte (dataAddr s.i 2)).toNat = (s.vx x).toNat % 10 ∧
    MemSameOutside s.i 3 s t ∧ OnlyMemChanges s t) ∧
  (∀ (x : Nibble) (s : State), s.i.toNat + 2 > 0xFFF → ∃ t, exec (.ldBVx x) s = .next t ∧
    EndsInFault .addressOutOfRange (wordX 0xF033 x) 0x1000 s t)

/-- 42_index_memory.md section 3 (R175; decisions D9, D11, log 10, 14): V0 to Vx inclusive at I upwards, every other byte
and every register as before; past 0xFFF the fault, with nothing written. -/
def Obligations.BlockStoreWritesOrFaults : Prop :=
  (∀ (x : Nibble) (s : State), s.i.toNat + x.toNat ≤ 0xFFF → ∃ t, exec (.ldMemVx x) s = .next t ∧
    EndsOk (s.pc + 2) s t ∧ (∀ r : Nibble, r.toNat ≤ x.toNat → t.readByte (dataAddr s.i r.toNat) = s.vx r) ∧
    MemSameOutside s.i (x.toNat + 1) s t ∧ OnlyMemChanges s t) ∧
  (∀ (x : Nibble) (s : State), s.i.toNat + x.toNat > 0xFFF → ∃ t, exec (.ldMemVx x) s = .next t ∧
    EndsInFault .addressOutOfRange (wordX 0xF055 x) 0x1000 s t)

/-- 42_index_memory.md section 3 (R176; decisions D9, D11, log 10, 14): V0 to Vx inclusive from I upwards, the registers
above x, I and memory as before; past 0xFFF the fault, with nothing written. -/
def Obligations.BlockLoadReadsOrFaults : Prop :=
  (∀ (x : Nibble) (s : State), s.i.toNat + x.toNat ≤ 0xFFF → ∃ t, exec (.ldVxMem x) s = .next t ∧
    EndsOk (s.pc + 2) s t ∧ (∀ r : Nibble, r.toNat ≤ x.toNat → t.vx r = s.readByte (dataAddr s.i r.toNat)) ∧
    (∀ r : Nibble, r.toNat > x.toNat → t.vx r = s.vx r) ∧
    t.i = s.i ∧ TimersSame s t ∧ StackSame s t ∧ FbSame s t ∧ MemSame s t) ∧
  (∀ (x : Nibble) (s : State), s.i.toNat + x.toNat > 0xFFF → ∃ t, exec (.ldVxMem x) s = .next t ∧
    EndsInFault .addressOutOfRange (wordX 0xF065 x) 0x1000 s t)

/-- R175 and R176 together: a block load after a block store with the same x and I, in any state with that memory, gives
the stored registers back. -/
def Obligations.BlockLoadUndoesBlockStore : Prop :=
  ∀ (x : Nibble) (s t u : State), s.i.toNat + x.toNat ≤ 0xFFF → exec (.ldMemVx x) s = .next t → u.mem = t.mem →
    u.i = s.i → ∃ w, exec (.ldVxMem x) u = .next w ∧ w.report = .step .ok false ∧
      ∀ r : Nibble, r.toNat ≤ x.toNat → w.vx r = s.vx r

/-- 20_memory.md section 7 (R78; decision D23, log 31): a word stored by LD [I] is what a fetch at that address then decodes and
runs, with nothing in between. -/
def Obligations.FetchSeesAStore : Prop :=
  ∀ (x : Nibble) (s t : State) (i : Instr), s.haltRec.halt = false → x.toNat ≥ 1 → s.i.toNat + x.toNat ≤ 0xFFF →
    exec (.ldMemVx x) s = .next t → decodeWord (wordOfBytes (s.vx 0x0) (s.vx 0x1)) = .ok i →
    stepOp { t with pc := s.i.setWidth 16 } = exec i { t with pc := s.i.setWidth 16 }

/-! Display. -/

/-- R191: the word 0x00E0 is CLS; it turns all 2048 cells off and changes nothing else, VF included. -/
def Obligations.ClearTurnsEveryCellOff : Prop :=
  decodeWord 0x00E0 = .ok .cls ∧
  ∀ s : State, ∃ t, exec .cls s = .next t ∧ EndsOk (s.pc + 2) s t ∧ (∀ r c, t.fb.cell r c = false) ∧
    RegsSameBut [] s t ∧ t.i = s.i ∧ TimersSame s t ∧ StackSame s t ∧ MemSame s t

/-- R192: drawByte toggles exactly the cells of row `y mod 32`, columns `(x + k) mod 64`, under the 1 bits, bit 7 first,
and reports a collision exactly when one of those cells was on. -/
def Obligations.DrawByteTogglesItsCells : Prop :=
  ∀ (fb : Framebuffer) (x y : Nat) (b : Byte),
    (∀ r c, (drawByte fb x y b).1.cell r c = true ↔
      Xor (fb.cell r c = true)
        (∃ k, k < 8 ∧ r.val = y % 32 ∧ c.val = (x + k) % 64 ∧ b.getLsbD (7 - k) = true)) ∧
    ((drawByte fb x y b).2 = true ↔
      ∃ r c k, k < 8 ∧ r.val = y % 32 ∧ c.val = (x + k) % 64 ∧ b.getLsbD (7 - k) = true ∧ fb.cell r c = true)

/-- 43_display.md section 2 (R193; decisions D8, D9, D22, log 13, 10, 17): DRW toggles exactly the cells under the sprite's
1 bits at the old (Vx, Vy), wrapping both ways, sets VF to the collision, and changes nothing else; n = 0 draws nothing;
past 0xFFF the fault, with nothing drawn. -/
def Obligations.DrawTogglesTheSpritesCells : Prop :=
  (∀ (x y n : Nibble) (s : State), n.toNat = 0 ∨ s.i.toNat + (n.toNat - 1) ≤ 0xFFF →
    ∃ t sprite, sprite.length = n.toNat ∧ (∀ j, j < n.toNat → sprite.getD j 0x00 = s.readByte (dataAddr s.i j)) ∧
      exec (.drw x y n) s = .next t ∧ EndsOk (s.pc + 2) s t ∧
      (∀ r c, t.fb.cell r c = true ↔
        Xor (s.fb.cell r c = true) (SpriteOn sprite (s.vx x).toNat (s.vx y).toNat r c)) ∧
      (t.vx vf = 0x00 ∨ t.vx vf = 0x01) ∧
      (t.vx vf = 0x01 ↔ ∃ r c, SpriteOn sprite (s.vx x).toNat (s.vx y).toNat r c ∧ s.fb.cell r c = true) ∧
      RegsSameBut [vf] s t ∧ t.i = s.i ∧ TimersSame s t ∧ StackSame s t ∧ MemSame s t) ∧
  (∀ (x y n : Nibble) (s : State), n.toNat ≥ 1 → s.i.toNat + (n.toNat - 1) > 0xFFF →
    ∃ t, exec (.drw x y n) s = .next t ∧
      EndsInFault .addressOutOfRange (wordXYN 0xD000 x y n) 0x1000 s t)

/-- 43_display.md section 2 (R194, which the spec derives from R192 and R193): the same sprite drawn twice at the same
position gives the framebuffer back, and the second draw collides exactly when the sprite has a 1 bit on a cell that was
off at first (x and y are not F, so the position stays). -/
def Obligations.DrawingTwiceRestoresTheScreen : Prop :=
  ∀ (x y n : Nibble) (s : State), x ≠ vf → y ≠ vf → n.toNat = 0 ∨ s.i.toNat + (n.toNat - 1) ≤ 0xFFF →
    ∃ t u, exec (.drw x y n) s = .next t ∧ exec (.drw x y n) t = .next u ∧ u.fb = s.fb ∧
      (u.vx vf = 0x01 ↔ ∃ r c, SpriteOn (s.readBlock n.toNat) (s.vx x).toNat (s.vx y).toNat r c ∧
        s.fb.cell r c = false)

/-! Keyboard and timers. -/

/-- 44_keys_timers.md section 3 (R213; decision D17, log 32): with no key pending LD Vx,K is BLOCKED and changes nothing,
PC included; with key k pending it stores k, raises KEY_ACK and goes on. -/
def Obligations.WaitForKeyBlocksOrTakesTheKey : Prop :=
  (∀ (x : Nibble) (s : State), s.inp.keyPending = none → ∃ t, exec (.ldVxK x) s = .next t ∧
    t.report = .step .blocked false ∧ t.pc = s.pc ∧ t.haltRec = s.haltRec ∧ OnlyRegsChange [] s t ∧ HostSideSame s t) ∧
  (∀ (x k : Nibble) (s : State), s.inp.keyPending = some k → ∃ t, exec (.ldVxK x) s = .next t ∧
    t.report = .step .ok true ∧ t.pc = s.pc + 2 ∧ t.haltRec = s.haltRec ∧ (t.vx x).toNat = k.toNat ∧
    OnlyRegsChange [x] s t ∧ HostSideSame s t)

/-- R214, R215, R216: the words of the three moves between Vx and a timer; the move, the TONE output that follows ST at
once, nothing else changed; and no instruction reads ST. -/
def Obligations.TimerMoves : Prop :=
  (∀ x : Nibble, decodeWord (wordX 0xF007 x) = .ok (.ldVxDt x) ∧ decodeWord (wordX 0xF015 x) = .ok (.ldDtVx x) ∧
    decodeWord (wordX 0xF018 x) = .ok (.ldStVx x)) ∧
  (∀ (i : Instr) (s : State) (st' : Byte), ∃ t t', exec i s = .next t ∧ exec i { s with st := st' } = .next t' ∧
    { t' with st := t.st } = t ∧ (t'.st = st' ∨ t'.st = t.st)) ∧
  (∀ (x : Nibble) (s : State), ∃ t, exec (.ldVxDt x) s = .next t ∧ EndsOk (s.pc + 2) s t ∧ t.vx x = s.dt ∧
    OnlyRegsChange [x] s t) ∧
  (∀ (x : Nibble) (s : State), ∃ t, exec (.ldDtVx x) s = .next t ∧ EndsOk (s.pc + 2) s t ∧ t.dt = s.vx x ∧
    t.st = s.st ∧ RegsSameBut [] s t ∧ t.i = s.i ∧ StackSame s t ∧ FbSame s t ∧ MemSame s t) ∧
  (∀ (x : Nibble) (s : State), ∃ t, exec (.ldStVx x) s = .next t ∧ EndsOk (s.pc + 2) s t ∧ t.st = s.vx x ∧
    (t.tone = true ↔ (s.vx x).toNat > 0) ∧
    t.dt = s.dt ∧ RegsSameBut [] s t ∧ t.i = s.i ∧ StackSame s t ∧ FbSame s t ∧ MemSame s t)

/-- R217: a TICK takes one off each timer, floor at 0, raises RENDER_REQ and reads and writes nothing else; n TICKs take n
off, never below 0; no STEP performs it: a timer changes in a STEP only by Fx15 or Fx18. -/
def Obligations.TickCountsBothTimersDown : Prop :=
  (∀ s t : State, stepOp s = .next t →
    (t.dt ≠ s.dt → ∃ x, decodeWord s.fetchWord = .ok (.ldDtVx x) ∧ t.dt = s.vx x) ∧
    (t.st ≠ s.st → ∃ x, decodeWord s.fetchWord = .ok (.ldStVx x) ∧ t.st = s.vx x)) ∧
  (∀ (s : State) (rest : List HostOp), s.schedule = .tick :: rest →
    ∃ t, step s = .next t ∧ t.dt.toNat = s.dt.toNat - 1 ∧ t.st.toNat = s.st.toNat - 1 ∧ t.report = .tick ∧
      t.pc = s.pc ∧ t.haltRec = s.haltRec ∧ RegsSameBut [] s t ∧ t.i = s.i ∧ StackSame s t ∧ FbSame s t ∧ MemSame s t ∧
      t.inp = s.inp ∧ t.schedule = rest ∧ t.freeIdx = s.freeIdx) ∧
  (∀ (n : Nat) (s : State), (State.tick^[n] s).dt.toNat = s.dt.toNat - n ∧ (State.tick^[n] s).st.toNat = s.st.toNat - n)

/-! The host's other operations. -/

/-- 70_reset_and_hazards.md section 2 (R275, R276; decision D20, log 20): a program of at most 3584 bytes is copied to
0x200 upwards and PC is 0x0200; every other byte and all other state is as before; a longer one changes nothing. -/
def Obligations.LoadCopiesTheProgramOrRefuses : Prop :=
  (∀ (s : State) (rom : List Byte) (rest : List HostOp), s.schedule = .load rom :: rest → rom.length ≤ 3584 →
    ∃ t, step s = .next t ∧ t.report = .load true ∧ t.pc = 0x0200 ∧
      (∀ a : Addr, t.readByte a = if 0x200 ≤ a.toNat ∧ a.toNat < 0x200 + rom.length then rom.getD (a.toNat - 0x200) 0x00
        else s.readByte a) ∧
      t.haltRec = s.haltRec ∧ OnlyMemChanges s t ∧ t.schedule = rest) ∧
  (∀ (s : State) (rom : List Byte) (rest : List HostOp), s.schedule = .load rom :: rest → rom.length > 3584 →
    ∃ t, step s = .next t ∧ t.report = .load false ∧ t.pc = s.pc ∧ t.haltRec = s.haltRec ∧ OnlyRegsChange [] s t ∧
      t.schedule = rest)

/-- R46, R47: a SNAPSHOT answers the 2048 cells, cell (r, c) at index 64 r + c, and changes no state; TICK raises
RENDER_REQ; TONE is `ST > 0`. -/
def Obligations.SnapshotAnswersTheCells : Prop :=
  (∀ (s : State) (rest : List HostOp), s.schedule = .snapshot :: rest →
    ∃ t cells, step s = .next t ∧ t.report = .snapshot cells ∧ cells.length = 2048 ∧
      (∀ (r : Fin 32) (c : Fin 64), cells[64 * r.val + c.val]? = some (s.fb.cell r c)) ∧
      t.pc = s.pc ∧ t.haltRec = s.haltRec ∧ OnlyRegsChange [] s t ∧ t.schedule = rest) ∧
  (∀ (s : State) (rest : List HostOp), s.schedule = .tick :: rest → ∃ t, step s = .next t ∧ t.report = .tick) ∧
  (∀ s : State, s.tone = true ↔ s.st.toNat > 0)

/-- 00_scope.md section 3 and 20_memory.md section 4 (R8, R68): the alternatives the parameters describe: a strict borrow
differs exactly on equal operands, a shift may take Vy, and under `wrap` no range check fails. -/
def Obligations.AlternativePoliciesDifferOnlyWhereSaid : Prop :=
  (∀ a b : Byte, notBorrowOf true a b = notBorrowOf false a b ↔ a ≠ b) ∧
  (∀ a b : Byte, shiftOperand false a b = a ∧ shiftOperand true a b = b) ∧
  (∀ (base : Addr) (m : Nat), rangeFaults .wrap base m = false) ∧ (∀ fa : Word, fetchFault .wrap fa = none) ∧
  (∀ (base : Addr) (j : Nat), (dataAddr base j).toNat = (base.toNat + j) % 4096)
end

