-- ==== Sys2Proof/Laws/Decode.lean ====
section
/-! SUPPORT. The formats and fields of 30_encoding.md R92, R94, R105 as numbers, so that no proof unfolds an append or an
extraction. -/
namespace Sys2Proof

/-- Two fields side by side, as a number. -/
theorem append_toNat {n m : Nat} (a : BitVec n) (b : BitVec m) : (a ++ b).toNat = a.toNat * 2 ^ m + b.toNat := by
  rw [BitVec.toNat_append, ← Nat.shiftLeft_add_eq_or_of_lt b.isLt, Nat.shiftLeft_eq]

theorem formatA_toNat (op : Nibble) (nnn : Addr) : (formatA op nnn).toNat = op.toNat * 4096 + nnn.toNat := by
  unfold formatA; rw [append_toNat]; omega

theorem formatXK_toNat (op x : Nibble) (kk : Byte) :
    (formatXK op x kk).toNat = op.toNat * 4096 + x.toNat * 256 + kk.toNat := by
  unfold formatXK; rw [append_toNat, append_toNat]; omega

theorem formatXY_toNat (op x y n : Nibble) :
    (formatXY op x y n).toNat = op.toNat * 4096 + x.toNat * 256 + y.toNat * 16 + n.toNat := by
  unfold formatXY; rw [append_toNat, append_toNat, append_toNat]; omega

theorem wordOfBytes_toNat (high low : Byte) : (wordOfBytes high low).toNat = high.toNat * 256 + low.toNat := by
  unfold wordOfBytes; rw [append_toNat]; omega

theorem opField_toNat (w : Word) : (opField w).toNat = w.toNat / 4096 := by
  have := w.isLt
  simp only [opField, BitVec.extractLsb'_toNat, Nat.shiftRight_eq_div_pow]; omega

theorem xField_toNat (w : Word) : (xField w).toNat = w.toNat / 256 % 16 := by
  simp [xField, BitVec.extractLsb'_toNat, Nat.shiftRight_eq_div_pow]

theorem yField_toNat (w : Word) : (yField w).toNat = w.toNat / 16 % 16 := by
  simp [yField, BitVec.extractLsb'_toNat, Nat.shiftRight_eq_div_pow]

theorem nField_toNat (w : Word) : (nField w).toNat = w.toNat % 16 := by
  simp [nField, BitVec.extractLsb'_toNat, Nat.shiftRight_eq_div_pow]

theorem kkField_toNat (w : Word) : (kkField w).toNat = w.toNat % 256 := by
  simp [kkField, BitVec.extractLsb'_toNat, Nat.shiftRight_eq_div_pow]

theorem nnnField_toNat (w : Word) : (nnnField w).toNat = w.toNat % 4096 := by
  simp [nnnField, BitVec.extractLsb'_toNat, Nat.shiftRight_eq_div_pow]

/-- The two bytes of a word, high byte first, are the word again (20_memory.md R62). -/
theorem wordOfBytes_split (w : Word) : wordOfBytes (w.extractLsb' 8 8) (w.extractLsb' 0 8) = w := by
  apply BitVec.eq_of_toNat_eq
  have := w.isLt
  rw [wordOfBytes_toNat]
  simp only [BitVec.extractLsb'_toNat, Nat.shiftRight_eq_div_pow]; omega

/-! The four masks of R96 pick fields. -/

theorem and_familyMask (w : Word) : w &&& 0xF000 = formatA (opField w) 0x000 := by
  apply BitVec.eq_of_getLsbD_eq
  intro k hk
  simp only [BitVec.getLsbD_and, formatA, opField, BitVec.getLsbD_append, BitVec.getLsbD_extractLsb']
  interval_cases k <;> simp

theorem and_lowNibbleMask (w : Word) : w &&& 0xF00F = formatXY (opField w) 0x0 0x0 (nField w) := by
  apply BitVec.eq_of_getLsbD_eq
  intro k hk
  simp only [BitVec.getLsbD_and, formatXY, opField, nField, BitVec.getLsbD_append, BitVec.getLsbD_extractLsb']
  interval_cases k <;> simp

theorem and_lowByteMask (w : Word) : w &&& 0xF0FF = formatXK (opField w) 0x0 (kkField w) := by
  apply BitVec.eq_of_getLsbD_eq
  intro k hk
  simp only [BitVec.getLsbD_and, formatXK, opField, kkField, BitVec.getLsbD_append, BitVec.getLsbD_extractLsb']
  interval_cases k <;> simp

theorem and_fullMask (w : Word) : w &&& 0xFFFF = w := BitVec.and_allOnes (x := w)

end Sys2Proof
end

