-- ==== Sys2Proof/Laws/Framebuffer.lean ====
section
/-! SUPPORT. The framebuffer's cells: read after write, extensionality, and what `clear` leaves. -/
namespace Sys2Proof.Machine

/-- Everything a cell write does to the grid. -/
theorem Framebuffer.cell_setCell (fb : Framebuffer) (r r' : Fin 32) (c c' : Fin 64) (b : Bool) :
    (fb.setCell r c b).cell r' c' = if r' = r ∧ c' = c then b else fb.cell r' c' := by
  unfold Framebuffer.cell Framebuffer.setCell
  simp only [Fin.getElem_fin, Vector.getElem_set]
  by_cases hr : r = r'
  · subst hr
    by_cases hc : c = c'
    · subst hc; simp
    · have : c.val ≠ c'.val := fun e => hc (Fin.ext e)
      simp [this, Ne.symm hc]
  · have : r.val ≠ r'.val := fun e => hr (Fin.ext e)
    simp [this, Ne.symm hr]

/-- Two grids with equal cells are equal. -/
theorem Framebuffer.ext_cell {fb fb' : Framebuffer} (h : ∀ r c, fb.cell r c = fb'.cell r c) : fb = fb' := by
  apply Vector.ext; intro r hr
  apply Vector.ext; intro c hc
  exact h ⟨r, hr⟩ ⟨c, hc⟩

@[simp] theorem Framebuffer.cell_cleared (r : Fin 32) (c : Fin 64) : Framebuffer.cleared.cell r c = false := by
  simp [Framebuffer.cleared, Framebuffer.cell]

/-- One bit operation of drawByte (43_display.md R192). -/
theorem drawBits_succ (fb : Framebuffer) (r : Fin 32) (x : Nat) (b : Byte) (k : Nat) :
    drawBits fb r x b (k + 1) =
      ((drawBits fb r x b k).1.setCell r (wrapCol x k)
          ((drawBits fb r x b k).1.cell r (wrapCol x k) ^^ b.getLsbD (7 - k)),
        (drawBits fb r x b k).2 || ((drawBits fb r x b k).1.cell r (wrapCol x k) && b.getLsbD (7 - k))) := rfl

/-- One sprite row of DRW (R193). -/
theorem drawSprite_cons (fb : Framebuffer) (x y : Nat) (b : Byte) (rest : List Byte) :
    drawSprite fb x y (b :: rest) =
      ((drawSprite (drawByte fb x y b).1 x (y + 1) rest).1,
        (drawByte fb x y b).2 || (drawSprite (drawByte fb x y b).1 x (y + 1) rest).2) := rfl

/-- A draw touches only cells of its row. -/
theorem drawBits_other_row (fb : Framebuffer) (r r' : Fin 32) (x : Nat) (b : Byte) (k : Nat) (c : Fin 64) (h : r' ≠ r) :
    (drawBits fb r x b k).1.cell r' c = fb.cell r' c := by
  induction k with
  | zero => rfl
  | succ k ih => rw [drawBits_succ, Framebuffer.cell_setCell, if_neg (fun e => h e.1), ih]

/-- The bit offsets of one byte name distinct columns (8 < 64). -/
theorem wrapCol_inj {x j k : Nat} (hj : j < 8) (hk : k < 8) (h : wrapCol x j = wrapCol x k) : j = k := by
  have := congrArg Fin.val h
  simp only [wrapCol] at this
  omega

end Sys2Proof.Machine
end

