-- ==== Sys2Proof/Laws/Memory.lean ====
section
/-! SUPPORT. Memory: read after write, and the canonical form (log 24), which every operation keeps. -/
namespace Sys2Proof.Machine

/-! Reading what was written. -/

theorem Memory.read_filter_other (m : Memory) {a k : Nat} (h : k ≠ a) :
    Memory.read (m.filter (fun c => c.1 != a)) k = m.read k := by
  induction m with
  | nil => rfl
  | cons c rest ih =>
    obtain ⟨j, b⟩ := c
    by_cases hj : j = a
    · subst hj; simpa [Memory.read, Ne.symm h] using ih
    · simp [hj, Memory.read, ih]

theorem Memory.read_filter_self (m : Memory) (a : Nat) :
    Memory.read (m.filter (fun c => c.1 != a)) a = resetByte a := by
  induction m with
  | nil => rfl
  | cons c rest ih =>
    obtain ⟨j, b⟩ := c
    by_cases hj : j = a <;> simp [hj, Memory.read, ih]

theorem Memory.read_insertCell_other (m : Memory) {a k : Nat} (b : Byte) (h : k ≠ a) :
    Memory.read (Memory.insertCell a b m) k = m.read k := by
  induction m with
  | nil => simp [Memory.insertCell, Memory.read, Ne.symm h]
  | cons c rest ih =>
    obtain ⟨j, d⟩ := c
    by_cases hj : a < j <;> simp [Memory.insertCell, hj, Memory.read, Ne.symm h, ih]

theorem Memory.read_insertCell_self (m : Memory) (a : Nat) (b : Byte) (h : ∀ c ∈ m, c.1 ≠ a) :
    Memory.read (Memory.insertCell a b m) a = b := by
  induction m with
  | nil => simp [Memory.insertCell, Memory.read]
  | cons c rest ih =>
    obtain ⟨j, d⟩ := c
    have hj : j ≠ a := h (j, d) (by simp)
    by_cases hlt : a < j
    · simp [Memory.insertCell, hlt, Memory.read]
    · simp [Memory.insertCell, hlt, Memory.read, hj, ih (fun c hc => h c (by simp [hc]))]

theorem Memory.read_write_self (m : Memory) (a : Nat) (b : Byte) : (Memory.write m a b).read a = b := by
  unfold Memory.write
  split
  · rename_i h; rw [Memory.read_filter_self, h]
  · exact Memory.read_insertCell_self _ _ _ (by intro c hc; simpa using (List.mem_filter.mp hc).2)

theorem Memory.read_write_other (m : Memory) {a k : Nat} (b : Byte) (h : k ≠ a) :
    (Memory.write m a b).read k = m.read k := by
  unfold Memory.write
  split
  · exact Memory.read_filter_other m h
  · rw [Memory.read_insertCell_other _ _ h, Memory.read_filter_other m h]

/-- Everything a write does to what is read (20_memory.md R70). -/
theorem Memory.read_write (m : Memory) (a k : Nat) (b : Byte) :
    (Memory.write m a b).read k = if k = a then b else m.read k := by
  split
  · rename_i h; subst h; exact Memory.read_write_self m k b
  · rename_i h; exact Memory.read_write_other m b h

/-- Everything LOAD's copy loop does to what is read: byte `j` of the list at `a + j`, all else as before. -/
theorem Memory.read_writeBytes (bs : List Byte) (m : Memory) (a k : Nat) :
    (Memory.writeBytes m a bs).read k = if a ≤ k ∧ k < a + bs.length then bs.getD (k - a) 0 else m.read k := by
  induction bs generalizing m a with
  | nil => simp [Memory.writeBytes]
  | cons b rest ih =>
    rw [Memory.writeBytes, ih, Memory.read_write]
    rcases Nat.lt_trichotomy k a with h | h | h
    · rw [if_neg (by omega), if_neg (by omega), if_neg (by simp; omega)]
    · subst h; rw [if_neg (by omega), if_pos rfl, if_pos (by simp)]; simp
    · obtain ⟨d, rfl⟩ : ∃ d, k = a + 1 + d := ⟨k - (a + 1), by omega⟩
      rw [if_neg (show ¬ a + 1 + d = a by omega)]
      have e1 : a + 1 + d - (a + 1) = d := by omega
      have e2 : a + 1 + d - a = d + 1 := by omega
      simp only [e1, e2, List.length_cons, List.getD_cons_succ]
      exact if_congr (by omega) rfl rfl

/-! The canonical form. -/

theorem Memory.wfFrom_mono {lo lo' : Nat} {m : Memory} (h : Memory.wfFrom lo m = true) (hl : lo' ≤ lo) :
    Memory.wfFrom lo' m = true := by
  cases m with
  | nil => rfl
  | cons c rest =>
    simp only [Memory.wfFrom, Bool.and_eq_true, decide_eq_true_eq] at h ⊢
    exact ⟨⟨⟨by omega, h.1.1.2⟩, h.1.2⟩, h.2⟩

theorem Memory.wfFrom_filter (p : Host.Cell → Bool) {lo : Nat} {m : Memory} (h : Memory.wfFrom lo m = true) :
    Memory.wfFrom lo (m.filter p) = true := by
  induction m generalizing lo with
  | nil => rfl
  | cons c rest ih =>
    simp only [Memory.wfFrom, Bool.and_eq_true, decide_eq_true_eq] at h
    by_cases hp : p c = true
    · simp only [List.filter, hp, Memory.wfFrom, Bool.and_eq_true, decide_eq_true_eq]
      exact ⟨h.1, ih h.2⟩
    · simp only [List.filter, hp]
      exact Memory.wfFrom_mono (ih h.2) (by omega)

theorem Memory.wfFrom_insertCell {lo a : Nat} {b : Byte} {m : Memory} (h : Memory.wfFrom lo m = true) (hlo : lo ≤ a)
    (ha : a < 4096) (hb : b ≠ resetByte a) (hne : ∀ c ∈ m, c.1 ≠ a) :
    Memory.wfFrom lo (Memory.insertCell a b m) = true := by
  induction m generalizing lo with
  | nil => simp [Memory.insertCell, Memory.wfFrom, hlo, ha, hb]
  | cons c rest ih =>
    obtain ⟨j, d⟩ := c
    simp only [Memory.wfFrom, Bool.and_eq_true, decide_eq_true_eq] at h
    have hj : j ≠ a := hne (j, d) (by simp)
    by_cases hlt : a < j
    · simp only [Memory.insertCell, hlt, if_true, Memory.wfFrom, Bool.and_eq_true, decide_eq_true_eq, bne_iff_ne]
      exact ⟨⟨⟨hlo, ha⟩, hb⟩, ⟨⟨by omega, h.1.1.2⟩, by simpa using h.1.2⟩, h.2⟩
    · simp only [Memory.insertCell, hlt, if_false, Memory.wfFrom, Bool.and_eq_true, decide_eq_true_eq]
      exact ⟨h.1, ih h.2 (by omega) (fun c hc => hne c (by simp [hc]))⟩

/-- A write inside memory keeps the canonical form. -/
theorem Memory.wf_write {m : Memory} (h : Memory.wf m = true) {a : Nat} (ha : a < 4096) (b : Byte) :
    Memory.wf (Memory.write m a b) = true := by
  unfold Memory.write
  split
  · exact Memory.wfFrom_filter _ h
  · rename_i hb
    exact Memory.wfFrom_insertCell (Memory.wfFrom_filter _ h) (Nat.zero_le a) ha hb
      (by intro c hc; simpa using (List.mem_filter.mp hc).2)

/-- LOAD's copy loop inside memory keeps the canonical form. -/
theorem Memory.wf_writeBytes {m : Memory} (h : Memory.wf m = true) {a : Nat} {bs : List Byte}
    (ha : a + bs.length ≤ 4096) : Memory.wf (Memory.writeBytes m a bs) = true := by
  induction bs generalizing m a with
  | nil => exact h
  | cons b rest ih =>
    simp only [List.length_cons] at ha
    exact ih (Memory.wf_write h (by omega) b) (by omega)

/-- Storing through the core's own address keeps the canonical form: an address has 12 bits. -/
theorem State.wf_writeByte {s : State} (h : s.mem.wf = true) (a : Addr) (b : Byte) : (s.writeByte a b).mem.wf = true :=
  Memory.wf_write h a.isLt b

theorem State.reset_mem_wf : State.reset.mem.wf = true := rfl

/-- Every address below a canonical list's bound reads as after reset. -/
theorem Memory.read_below {lo k : Nat} {m : Memory} (h : Memory.wfFrom lo m = true) (hk : k < lo) :
    m.read k = resetByte k := by
  induction m generalizing lo with
  | nil => rfl
  | cons c rest ih =>
    obtain ⟨j, d⟩ := c
    simp only [Memory.wfFrom, Bool.and_eq_true, decide_eq_true_eq] at h
    rw [Memory.read, if_neg (by omega), ih h.2 (by omega)]

/-- What the canonical form is for: equal contents are equal data. -/
theorem Memory.ext_of_wfFrom {lo : Nat} {m m' : Memory} (h : Memory.wfFrom lo m = true) (h' : Memory.wfFrom lo m' = true)
    (heq : ∀ k, m.read k = m'.read k) : m = m' := by
  induction m generalizing lo m' with
  | nil =>
    cases m' with
    | nil => rfl
    | cons c rest =>
      obtain ⟨j, d⟩ := c
      simp only [Memory.wfFrom, Bool.and_eq_true, bne_iff_ne] at h'
      exact absurd (by simpa [Memory.read] using (heq j).symm) h'.1.2
  | cons c rest ih =>
    obtain ⟨j, d⟩ := c
    simp only [Memory.wfFrom, Bool.and_eq_true, decide_eq_true_eq, bne_iff_ne] at h
    cases m' with
    | nil => exact absurd (by simpa [Memory.read] using heq j) h.1.2
    | cons c' rest' =>
      obtain ⟨j', d'⟩ := c'
      simp only [Memory.wfFrom, Bool.and_eq_true, decide_eq_true_eq, bne_iff_ne] at h'
      rcases Nat.lt_trichotomy j j' with hlt | heqj | hgt
      · have := heq j
        rw [Memory.read, if_pos rfl, Memory.read, if_neg (by omega), Memory.read_below h'.2 (by omega)] at this
        exact absurd this h.1.2
      · subst heqj
        have hd : d = d' := by simpa [Memory.read] using heq j
        subst hd
        have hrest : rest = rest' := ih h.2 h'.2 (by
          intro k
          by_cases hk : j = k
          · subst hk; rw [Memory.read_below h.2 (by omega), Memory.read_below h'.2 (by omega)]
          · have := heq k; rwa [Memory.read, if_neg hk, Memory.read, if_neg hk] at this)
        rw [hrest]
      · have := heq j'
        rw [Memory.read, if_neg (by omega), Memory.read, if_pos rfl, Memory.read_below h.2 (by omega)] at this
        exact absurd this.symm h'.1.2

end Sys2Proof.Machine
end

