-- ==== Sys2Proof/Laws/State.lean ====
section
/-! SUPPORT. One lemma per field per update of State, true by rfl, so that no proof unfolds a record update. -/
namespace Sys2Proof.Machine

variable (s : State)

/-! `State.setVx`. -/
@[simp] theorem State.setVx_v (x : Nibble) (b : Byte) : (s.setVx x b).v = s.v.set x.toNat b x.isLt := rfl
@[simp] theorem State.setVx_i (x : Nibble) (b : Byte) : (s.setVx x b).i = s.i := rfl
@[simp] theorem State.setVx_pc (x : Nibble) (b : Byte) : (s.setVx x b).pc = s.pc := rfl
@[simp] theorem State.setVx_dt (x : Nibble) (b : Byte) : (s.setVx x b).dt = s.dt := rfl
@[simp] theorem State.setVx_st (x : Nibble) (b : Byte) : (s.setVx x b).st = s.st := rfl
@[simp] theorem State.setVx_sp (x : Nibble) (b : Byte) : (s.setVx x b).sp = s.sp := rfl
@[simp] theorem State.setVx_stack (x : Nibble) (b : Byte) : (s.setVx x b).stack = s.stack := rfl
@[simp] theorem State.setVx_fb (x : Nibble) (b : Byte) : (s.setVx x b).fb = s.fb := rfl
@[simp] theorem State.setVx_mem (x : Nibble) (b : Byte) : (s.setVx x b).mem = s.mem := rfl
@[simp] theorem State.setVx_haltRec (x : Nibble) (b : Byte) : (s.setVx x b).haltRec = s.haltRec := rfl
@[simp] theorem State.setVx_inp (x : Nibble) (b : Byte) : (s.setVx x b).inp = s.inp := rfl
@[simp] theorem State.setVx_schedule (x : Nibble) (b : Byte) : (s.setVx x b).schedule = s.schedule := rfl
@[simp] theorem State.setVx_freeIdx (x : Nibble) (b : Byte) : (s.setVx x b).freeIdx = s.freeIdx := rfl
@[simp] theorem State.setVx_report (x : Nibble) (b : Byte) : (s.setVx x b).report = s.report := rfl

/-! `State.setI`. -/
@[simp] theorem State.setI_v (a : Addr) : (s.setI a).v = s.v := rfl
@[simp] theorem State.setI_i (a : Addr) : (s.setI a).i = a := rfl
@[simp] theorem State.setI_pc (a : Addr) : (s.setI a).pc = s.pc := rfl
@[simp] theorem State.setI_dt (a : Addr) : (s.setI a).dt = s.dt := rfl
@[simp] theorem State.setI_st (a : Addr) : (s.setI a).st = s.st := rfl
@[simp] theorem State.setI_sp (a : Addr) : (s.setI a).sp = s.sp := rfl
@[simp] theorem State.setI_stack (a : Addr) : (s.setI a).stack = s.stack := rfl
@[simp] theorem State.setI_fb (a : Addr) : (s.setI a).fb = s.fb := rfl
@[simp] theorem State.setI_mem (a : Addr) : (s.setI a).mem = s.mem := rfl
@[simp] theorem State.setI_haltRec (a : Addr) : (s.setI a).haltRec = s.haltRec := rfl
@[simp] theorem State.setI_inp (a : Addr) : (s.setI a).inp = s.inp := rfl
@[simp] theorem State.setI_schedule (a : Addr) : (s.setI a).schedule = s.schedule := rfl
@[simp] theorem State.setI_freeIdx (a : Addr) : (s.setI a).freeIdx = s.freeIdx := rfl
@[simp] theorem State.setI_report (a : Addr) : (s.setI a).report = s.report := rfl

/-! `State.writeByte`. -/
@[simp] theorem State.writeByte_v (a : Addr) (b : Byte) : (s.writeByte a b).v = s.v := rfl
@[simp] theorem State.writeByte_i (a : Addr) (b : Byte) : (s.writeByte a b).i = s.i := rfl
@[simp] theorem State.writeByte_pc (a : Addr) (b : Byte) : (s.writeByte a b).pc = s.pc := rfl
@[simp] theorem State.writeByte_dt (a : Addr) (b : Byte) : (s.writeByte a b).dt = s.dt := rfl
@[simp] theorem State.writeByte_st (a : Addr) (b : Byte) : (s.writeByte a b).st = s.st := rfl
@[simp] theorem State.writeByte_sp (a : Addr) (b : Byte) : (s.writeByte a b).sp = s.sp := rfl
@[simp] theorem State.writeByte_stack (a : Addr) (b : Byte) : (s.writeByte a b).stack = s.stack := rfl
@[simp] theorem State.writeByte_fb (a : Addr) (b : Byte) : (s.writeByte a b).fb = s.fb := rfl
@[simp] theorem State.writeByte_mem (a : Addr) (b : Byte) : (s.writeByte a b).mem = s.mem.write a.toNat b := rfl
@[simp] theorem State.writeByte_haltRec (a : Addr) (b : Byte) : (s.writeByte a b).haltRec = s.haltRec := rfl
@[simp] theorem State.writeByte_inp (a : Addr) (b : Byte) : (s.writeByte a b).inp = s.inp := rfl
@[simp] theorem State.writeByte_schedule (a : Addr) (b : Byte) : (s.writeByte a b).schedule = s.schedule := rfl
@[simp] theorem State.writeByte_freeIdx (a : Addr) (b : Byte) : (s.writeByte a b).freeIdx = s.freeIdx := rfl
@[simp] theorem State.writeByte_report (a : Addr) (b : Byte) : (s.writeByte a b).report = s.report := rfl

/-! `State.retire`. -/
@[simp] theorem State.retire_v (p : Word) : (s.retire p).v = s.v := rfl
@[simp] theorem State.retire_i (p : Word) : (s.retire p).i = s.i := rfl
@[simp] theorem State.retire_pc (p : Word) : (s.retire p).pc = p := rfl
@[simp] theorem State.retire_dt (p : Word) : (s.retire p).dt = s.dt := rfl
@[simp] theorem State.retire_st (p : Word) : (s.retire p).st = s.st := rfl
@[simp] theorem State.retire_sp (p : Word) : (s.retire p).sp = s.sp := rfl
@[simp] theorem State.retire_stack (p : Word) : (s.retire p).stack = s.stack := rfl
@[simp] theorem State.retire_fb (p : Word) : (s.retire p).fb = s.fb := rfl
@[simp] theorem State.retire_mem (p : Word) : (s.retire p).mem = s.mem := rfl
@[simp] theorem State.retire_haltRec (p : Word) : (s.retire p).haltRec = s.haltRec := rfl
@[simp] theorem State.retire_inp (p : Word) : (s.retire p).inp = s.inp := rfl
@[simp] theorem State.retire_schedule (p : Word) : (s.retire p).schedule = s.schedule := rfl
@[simp] theorem State.retire_freeIdx (p : Word) : (s.retire p).freeIdx = s.freeIdx := rfl
@[simp] theorem State.retire_report (p : Word) : (s.retire p).report = .step .ok false := rfl

/-! `State.retireNext`. -/
@[simp] theorem State.retireNext_v : (s.retireNext).v = s.v := rfl
@[simp] theorem State.retireNext_i : (s.retireNext).i = s.i := rfl
@[simp] theorem State.retireNext_pc : (s.retireNext).pc = s.pc + 2 := rfl
@[simp] theorem State.retireNext_dt : (s.retireNext).dt = s.dt := rfl
@[simp] theorem State.retireNext_st : (s.retireNext).st = s.st := rfl
@[simp] theorem State.retireNext_sp : (s.retireNext).sp = s.sp := rfl
@[simp] theorem State.retireNext_stack : (s.retireNext).stack = s.stack := rfl
@[simp] theorem State.retireNext_fb : (s.retireNext).fb = s.fb := rfl
@[simp] theorem State.retireNext_mem : (s.retireNext).mem = s.mem := rfl
@[simp] theorem State.retireNext_haltRec : (s.retireNext).haltRec = s.haltRec := rfl
@[simp] theorem State.retireNext_inp : (s.retireNext).inp = s.inp := rfl
@[simp] theorem State.retireNext_schedule : (s.retireNext).schedule = s.schedule := rfl
@[simp] theorem State.retireNext_freeIdx : (s.retireNext).freeIdx = s.freeIdx := rfl
@[simp] theorem State.retireNext_report : (s.retireNext).report = .step .ok false := rfl

/-! `State.block`. -/
@[simp] theorem State.block_v : (s.block).v = s.v := rfl
@[simp] theorem State.block_i : (s.block).i = s.i := rfl
@[simp] theorem State.block_pc : (s.block).pc = s.pc := rfl
@[simp] theorem State.block_dt : (s.block).dt = s.dt := rfl
@[simp] theorem State.block_st : (s.block).st = s.st := rfl
@[simp] theorem State.block_sp : (s.block).sp = s.sp := rfl
@[simp] theorem State.block_stack : (s.block).stack = s.stack := rfl
@[simp] theorem State.block_fb : (s.block).fb = s.fb := rfl
@[simp] theorem State.block_mem : (s.block).mem = s.mem := rfl
@[simp] theorem State.block_haltRec : (s.block).haltRec = s.haltRec := rfl
@[simp] theorem State.block_inp : (s.block).inp = s.inp := rfl
@[simp] theorem State.block_schedule : (s.block).schedule = s.schedule := rfl
@[simp] theorem State.block_freeIdx : (s.block).freeIdx = s.freeIdx := rfl
@[simp] theorem State.block_report : (s.block).report = .step .blocked false := rfl

/-! `State.ackKey`. -/
@[simp] theorem State.ackKey_v : (s.ackKey).v = s.v := rfl
@[simp] theorem State.ackKey_i : (s.ackKey).i = s.i := rfl
@[simp] theorem State.ackKey_pc : (s.ackKey).pc = s.pc := rfl
@[simp] theorem State.ackKey_dt : (s.ackKey).dt = s.dt := rfl
@[simp] theorem State.ackKey_st : (s.ackKey).st = s.st := rfl
@[simp] theorem State.ackKey_sp : (s.ackKey).sp = s.sp := rfl
@[simp] theorem State.ackKey_stack : (s.ackKey).stack = s.stack := rfl
@[simp] theorem State.ackKey_fb : (s.ackKey).fb = s.fb := rfl
@[simp] theorem State.ackKey_mem : (s.ackKey).mem = s.mem := rfl
@[simp] theorem State.ackKey_haltRec : (s.ackKey).haltRec = s.haltRec := rfl
@[simp] theorem State.ackKey_inp : (s.ackKey).inp = s.inp := rfl
@[simp] theorem State.ackKey_schedule : (s.ackKey).schedule = s.schedule := rfl
@[simp] theorem State.ackKey_freeIdx : (s.ackKey).freeIdx = s.freeIdx := rfl
@[simp] theorem State.ackKey_report : (s.ackKey).report = .step .ok true := rfl

/-! `State.pop`. -/
@[simp] theorem State.pop_v : (s.pop).v = s.v := rfl
@[simp] theorem State.pop_i : (s.pop).i = s.i := rfl
@[simp] theorem State.pop_pc : (s.pop).pc = s.pc := rfl
@[simp] theorem State.pop_dt : (s.pop).dt = s.dt := rfl
@[simp] theorem State.pop_st : (s.pop).st = s.st := rfl
@[simp] theorem State.pop_stack : (s.pop).stack = s.stack := rfl
@[simp] theorem State.pop_fb : (s.pop).fb = s.fb := rfl
@[simp] theorem State.pop_mem : (s.pop).mem = s.mem := rfl
@[simp] theorem State.pop_haltRec : (s.pop).haltRec = s.haltRec := rfl
@[simp] theorem State.pop_inp : (s.pop).inp = s.inp := rfl
@[simp] theorem State.pop_schedule : (s.pop).schedule = s.schedule := rfl
@[simp] theorem State.pop_freeIdx : (s.pop).freeIdx = s.freeIdx := rfl
@[simp] theorem State.pop_report : (s.pop).report = s.report := rfl

/-! `State.raise`. -/
@[simp] theorem State.raise_v (c : Cause) (w a : Word) : (s.raise c w a).v = s.v := rfl
@[simp] theorem State.raise_i (c : Cause) (w a : Word) : (s.raise c w a).i = s.i := rfl
@[simp] theorem State.raise_pc (c : Cause) (w a : Word) : (s.raise c w a).pc = s.pc := rfl
@[simp] theorem State.raise_dt (c : Cause) (w a : Word) : (s.raise c w a).dt = s.dt := rfl
@[simp] theorem State.raise_st (c : Cause) (w a : Word) : (s.raise c w a).st = s.st := rfl
@[simp] theorem State.raise_sp (c : Cause) (w a : Word) : (s.raise c w a).sp = s.sp := rfl
@[simp] theorem State.raise_stack (c : Cause) (w a : Word) : (s.raise c w a).stack = s.stack := rfl
@[simp] theorem State.raise_fb (c : Cause) (w a : Word) : (s.raise c w a).fb = s.fb := rfl
@[simp] theorem State.raise_mem (c : Cause) (w a : Word) : (s.raise c w a).mem = s.mem := rfl
@[simp] theorem State.raise_haltRec (c : Cause) (w a : Word) : (s.raise c w a).haltRec = ⟨true, c, w, s.pc, a⟩ := rfl
@[simp] theorem State.raise_inp (c : Cause) (w a : Word) : (s.raise c w a).inp = s.inp := rfl
@[simp] theorem State.raise_schedule (c : Cause) (w a : Word) : (s.raise c w a).schedule = s.schedule := rfl
@[simp] theorem State.raise_freeIdx (c : Cause) (w a : Word) : (s.raise c w a).freeIdx = s.freeIdx := rfl
@[simp] theorem State.raise_report (c : Cause) (w a : Word) : (s.raise c w a).report = .step .fault false := rfl

/-! `State.raiseIn`. -/
@[simp] theorem State.raiseIn_v (j : Instr) (c : Cause) (a : Word) : (s.raiseIn j c a).v = s.v := rfl
@[simp] theorem State.raiseIn_i (j : Instr) (c : Cause) (a : Word) : (s.raiseIn j c a).i = s.i := rfl
@[simp] theorem State.raiseIn_pc (j : Instr) (c : Cause) (a : Word) : (s.raiseIn j c a).pc = s.pc := rfl
@[simp] theorem State.raiseIn_dt (j : Instr) (c : Cause) (a : Word) : (s.raiseIn j c a).dt = s.dt := rfl
@[simp] theorem State.raiseIn_st (j : Instr) (c : Cause) (a : Word) : (s.raiseIn j c a).st = s.st := rfl
@[simp] theorem State.raiseIn_sp (j : Instr) (c : Cause) (a : Word) : (s.raiseIn j c a).sp = s.sp := rfl
@[simp] theorem State.raiseIn_stack (j : Instr) (c : Cause) (a : Word) : (s.raiseIn j c a).stack = s.stack := rfl
@[simp] theorem State.raiseIn_fb (j : Instr) (c : Cause) (a : Word) : (s.raiseIn j c a).fb = s.fb := rfl
@[simp] theorem State.raiseIn_mem (j : Instr) (c : Cause) (a : Word) : (s.raiseIn j c a).mem = s.mem := rfl
@[simp] theorem State.raiseIn_haltRec (j : Instr) (c : Cause) (a : Word) : (s.raiseIn j c a).haltRec = ⟨true, c, encode j, s.pc, a⟩ := rfl
@[simp] theorem State.raiseIn_inp (j : Instr) (c : Cause) (a : Word) : (s.raiseIn j c a).inp = s.inp := rfl
@[simp] theorem State.raiseIn_schedule (j : Instr) (c : Cause) (a : Word) : (s.raiseIn j c a).schedule = s.schedule := rfl
@[simp] theorem State.raiseIn_freeIdx (j : Instr) (c : Cause) (a : Word) : (s.raiseIn j c a).freeIdx = s.freeIdx := rfl
@[simp] theorem State.raiseIn_report (j : Instr) (c : Cause) (a : Word) : (s.raiseIn j c a).report = .step .fault false := rfl

/-! `State.setResultFlag`. -/
@[simp] theorem State.setResultFlag_i (x : Nibble) (b : Byte) (c : Bool) : (s.setResultFlag x b c).i = s.i := rfl
@[simp] theorem State.setResultFlag_pc (x : Nibble) (b : Byte) (c : Bool) : (s.setResultFlag x b c).pc = s.pc := rfl
@[simp] theorem State.setResultFlag_dt (x : Nibble) (b : Byte) (c : Bool) : (s.setResultFlag x b c).dt = s.dt := rfl
@[simp] theorem State.setResultFlag_st (x : Nibble) (b : Byte) (c : Bool) : (s.setResultFlag x b c).st = s.st := rfl
@[simp] theorem State.setResultFlag_sp (x : Nibble) (b : Byte) (c : Bool) : (s.setResultFlag x b c).sp = s.sp := rfl
@[simp] theorem State.setResultFlag_stack (x : Nibble) (b : Byte) (c : Bool) : (s.setResultFlag x b c).stack = s.stack := rfl
@[simp] theorem State.setResultFlag_fb (x : Nibble) (b : Byte) (c : Bool) : (s.setResultFlag x b c).fb = s.fb := rfl
@[simp] theorem State.setResultFlag_mem (x : Nibble) (b : Byte) (c : Bool) : (s.setResultFlag x b c).mem = s.mem := rfl
@[simp] theorem State.setResultFlag_haltRec (x : Nibble) (b : Byte) (c : Bool) : (s.setResultFlag x b c).haltRec = s.haltRec := rfl
@[simp] theorem State.setResultFlag_inp (x : Nibble) (b : Byte) (c : Bool) : (s.setResultFlag x b c).inp = s.inp := rfl
@[simp] theorem State.setResultFlag_schedule (x : Nibble) (b : Byte) (c : Bool) : (s.setResultFlag x b c).schedule = s.schedule := rfl
@[simp] theorem State.setResultFlag_freeIdx (x : Nibble) (b : Byte) (c : Bool) : (s.setResultFlag x b c).freeIdx = s.freeIdx := rfl
@[simp] theorem State.setResultFlag_report (x : Nibble) (b : Byte) (c : Bool) : (s.setResultFlag x b c).report = s.report := rfl

/-! `State.sample`. -/
@[simp] theorem State.sample_v (u : Inputs) : (s.sample u).v = s.v := rfl
@[simp] theorem State.sample_i (u : Inputs) : (s.sample u).i = s.i := rfl
@[simp] theorem State.sample_pc (u : Inputs) : (s.sample u).pc = s.pc := rfl
@[simp] theorem State.sample_dt (u : Inputs) : (s.sample u).dt = s.dt := rfl
@[simp] theorem State.sample_st (u : Inputs) : (s.sample u).st = s.st := rfl
@[simp] theorem State.sample_sp (u : Inputs) : (s.sample u).sp = s.sp := rfl
@[simp] theorem State.sample_stack (u : Inputs) : (s.sample u).stack = s.stack := rfl
@[simp] theorem State.sample_fb (u : Inputs) : (s.sample u).fb = s.fb := rfl
@[simp] theorem State.sample_mem (u : Inputs) : (s.sample u).mem = s.mem := rfl
@[simp] theorem State.sample_haltRec (u : Inputs) : (s.sample u).haltRec = s.haltRec := rfl
@[simp] theorem State.sample_inp (u : Inputs) : (s.sample u).inp = u := rfl
@[simp] theorem State.sample_schedule (u : Inputs) : (s.sample u).schedule = s.schedule := rfl
@[simp] theorem State.sample_freeIdx (u : Inputs) : (s.sample u).freeIdx = s.freeIdx := rfl
@[simp] theorem State.sample_report (u : Inputs) : (s.sample u).report = s.report := rfl

/-! `State.stayHalted`. -/
@[simp] theorem State.stayHalted_v : (s.stayHalted).v = s.v := rfl
@[simp] theorem State.stayHalted_i : (s.stayHalted).i = s.i := rfl
@[simp] theorem State.stayHalted_pc : (s.stayHalted).pc = s.pc := rfl
@[simp] theorem State.stayHalted_dt : (s.stayHalted).dt = s.dt := rfl
@[simp] theorem State.stayHalted_st : (s.stayHalted).st = s.st := rfl
@[simp] theorem State.stayHalted_sp : (s.stayHalted).sp = s.sp := rfl
@[simp] theorem State.stayHalted_stack : (s.stayHalted).stack = s.stack := rfl
@[simp] theorem State.stayHalted_fb : (s.stayHalted).fb = s.fb := rfl
@[simp] theorem State.stayHalted_mem : (s.stayHalted).mem = s.mem := rfl
@[simp] theorem State.stayHalted_haltRec : (s.stayHalted).haltRec = s.haltRec := rfl
@[simp] theorem State.stayHalted_inp : (s.stayHalted).inp = s.inp := rfl
@[simp] theorem State.stayHalted_schedule : (s.stayHalted).schedule = s.schedule := rfl
@[simp] theorem State.stayHalted_freeIdx : (s.stayHalted).freeIdx = s.freeIdx := rfl
@[simp] theorem State.stayHalted_report : (s.stayHalted).report = .step .fault false := rfl

/-! `State.tick`. -/
@[simp] theorem State.tick_v : (s.tick).v = s.v := rfl
@[simp] theorem State.tick_i : (s.tick).i = s.i := rfl
@[simp] theorem State.tick_pc : (s.tick).pc = s.pc := rfl
@[simp] theorem State.tick_dt : (s.tick).dt = timerTick s.dt := rfl
@[simp] theorem State.tick_st : (s.tick).st = timerTick s.st := rfl
@[simp] theorem State.tick_sp : (s.tick).sp = s.sp := rfl
@[simp] theorem State.tick_stack : (s.tick).stack = s.stack := rfl
@[simp] theorem State.tick_fb : (s.tick).fb = s.fb := rfl
@[simp] theorem State.tick_mem : (s.tick).mem = s.mem := rfl
@[simp] theorem State.tick_haltRec : (s.tick).haltRec = s.haltRec := rfl
@[simp] theorem State.tick_inp : (s.tick).inp = s.inp := rfl
@[simp] theorem State.tick_schedule : (s.tick).schedule = s.schedule := rfl
@[simp] theorem State.tick_freeIdx : (s.tick).freeIdx = s.freeIdx := rfl
@[simp] theorem State.tick_report : (s.tick).report = .tick := rfl

/-! `State.snapshot`. -/
@[simp] theorem State.snapshot_v : (s.snapshot).v = s.v := rfl
@[simp] theorem State.snapshot_i : (s.snapshot).i = s.i := rfl
@[simp] theorem State.snapshot_pc : (s.snapshot).pc = s.pc := rfl
@[simp] theorem State.snapshot_dt : (s.snapshot).dt = s.dt := rfl
@[simp] theorem State.snapshot_st : (s.snapshot).st = s.st := rfl
@[simp] theorem State.snapshot_sp : (s.snapshot).sp = s.sp := rfl
@[simp] theorem State.snapshot_stack : (s.snapshot).stack = s.stack := rfl
@[simp] theorem State.snapshot_fb : (s.snapshot).fb = s.fb := rfl
@[simp] theorem State.snapshot_mem : (s.snapshot).mem = s.mem := rfl
@[simp] theorem State.snapshot_haltRec : (s.snapshot).haltRec = s.haltRec := rfl
@[simp] theorem State.snapshot_inp : (s.snapshot).inp = s.inp := rfl
@[simp] theorem State.snapshot_schedule : (s.snapshot).schedule = s.schedule := rfl
@[simp] theorem State.snapshot_freeIdx : (s.snapshot).freeIdx = s.freeIdx := rfl
@[simp] theorem State.snapshot_report : (s.snapshot).report = .snapshot s.fb.cells := rfl

/-! `State.push` where it stores: SP below 16. -/
@[simp] theorem State.push_v (a : Word) : (s.push a).v = s.v := by unfold State.push; split <;> rfl
@[simp] theorem State.push_i (a : Word) : (s.push a).i = s.i := by unfold State.push; split <;> rfl
@[simp] theorem State.push_pc (a : Word) : (s.push a).pc = s.pc := by unfold State.push; split <;> rfl
@[simp] theorem State.push_dt (a : Word) : (s.push a).dt = s.dt := by unfold State.push; split <;> rfl
@[simp] theorem State.push_st (a : Word) : (s.push a).st = s.st := by unfold State.push; split <;> rfl
@[simp] theorem State.push_fb (a : Word) : (s.push a).fb = s.fb := by unfold State.push; split <;> rfl
@[simp] theorem State.push_mem (a : Word) : (s.push a).mem = s.mem := by unfold State.push; split <;> rfl
@[simp] theorem State.push_haltRec (a : Word) : (s.push a).haltRec = s.haltRec := by unfold State.push; split <;> rfl
@[simp] theorem State.push_inp (a : Word) : (s.push a).inp = s.inp := by unfold State.push; split <;> rfl
@[simp] theorem State.push_schedule (a : Word) : (s.push a).schedule = s.schedule := by unfold State.push; split <;> rfl
@[simp] theorem State.push_freeIdx (a : Word) : (s.push a).freeIdx = s.freeIdx := by unfold State.push; split <;> rfl
@[simp] theorem State.push_report (a : Word) : (s.push a).report = s.report := by unfold State.push; split <;> rfl
theorem State.push_sp (a : Word) (h : s.sp.val < 16) : (s.push a).sp.val = s.sp.val + 1 := by simp [State.push, h]
theorem State.push_stack (a : Word) (h : s.sp.val < 16) : (s.push a).stack = s.stack.set s.sp.val a h := by simp [State.push, h]
@[simp] theorem State.pop_sp : s.pop.sp.val = s.sp.val - 1 := rfl

end Sys2Proof.Machine
end

