-- ==== Sys2Proof/Laws/Ops.lean ====
section
/-! SUPPORT. One lemma per shared operation over registers, memory bytes, block transfers, flags and targets: everything
the operation can do, to be cited instead of unfolding it. -/
namespace Sys2Proof.Machine

/-! General registers. -/

/-- Everything a register write does to the registers (10_state.md R21). -/
theorem State.vx_setVx (s : State) (x r : Nibble) (b : Byte) : (s.setVx x b).vx r = if r = x then b else s.vx r := by
  unfold State.vx State.setVx
  rw [Vector.getElem_set]
  by_cases h : r = x
  · simp [h]
  · have : x.toNat ≠ r.toNat := fun e => h (BitVec.eq_of_toNat_eq e.symm)
    simp [h, this]

@[simp] theorem State.vx_setVx_self (s : State) (x : Nibble) (b : Byte) : (s.setVx x b).vx x = b := by
  simp [State.vx_setVx]

theorem State.vx_setVx_other (s : State) {x r : Nibble} (b : Byte) (h : r ≠ x) : (s.setVx x b).vx r = s.vx r := by
  simp [State.vx_setVx, h]

/-- Everything a flag-writing instruction does to the registers (41_load_alu.md R141): the flag is the later write. -/
theorem State.vx_setResultFlag (s : State) (x r : Nibble) (b : Byte) (c : Bool) :
    (s.setResultFlag x b c).vx r = if r = vf then flagByte c else if r = x then b else s.vx r := by
  simp only [State.setResultFlag, State.vx_setVx]

/-- Registers are read through the field `v` alone. -/
theorem State.vx_congr {s t : State} (h : t.v = s.v) (r : Nibble) : t.vx r = s.vx r := by simp only [State.vx, h]

/-- Memory is read through the field `mem` alone. -/
theorem State.readByte_congr {s t : State} (h : t.mem = s.mem) (a : Addr) : t.readByte a = s.readByte a := by
  simp only [State.readByte, h]

/-! Memory bytes (20_memory.md R70). -/

/-- Everything a byte store does to memory. -/
theorem State.readByte_writeByte (s : State) (a a' : Addr) (b : Byte) :
    (s.writeByte a b).readByte a' = if a' = a then b else s.readByte a' := by
  simp only [State.readByte, State.writeByte_mem, Memory.read_write, BitVec.toNat_inj]

/-! The stack (10_state.md R30). -/

/-- Everything a push does to the slots: the return address in the new top slot, every other slot as before. -/
theorem State.slot_push (s : State) (a : Word) (h : s.sp.val < 16) (k : Fin 16) :
    (s.push a).stack[k] = if k.val = s.sp.val then a else s.stack[k] := by
  have hp := State.push_stack s a h
  simp only [hp, Fin.getElem_fin, Vector.getElem_set, eq_comm]

/-- The top entry is the slot SP names. -/
theorem State.stackTop_eq (s : State) (k : Fin 16) (h : s.sp.val = k.val + 1) : s.stackTop = s.stack[k] := by
  simp only [State.stackTop, h, Nat.add_sub_cancel, Fin.getElem_fin]

/-! Effective addresses. -/

/-- Under the range check of R66 the effective address is the unbounded sum. -/
theorem dataAddr_toNat {base : Addr} {j : Nat} (h : base.toNat + j ≤ 0xFFF) : (dataAddr base j).toNat = base.toNat + j := by
  simp only [dataAddr, BitVec.toNat_add, BitVec.toNat_ofNat]; omega

/-- Two offsets below 4096 name one address only if they are equal. -/
theorem dataAddr_inj {base : Addr} {i j : Nat} (hi : i < 4096) (hj : j < 4096) (h : dataAddr base i = dataAddr base j) :
    i = j := by
  have := congrArg BitVec.toNat h
  have hb := base.isLt
  simp only [dataAddr, BitVec.toNat_add, BitVec.toNat_ofNat] at this
  omega

/-- The range check of R66 at the spec's policy. -/
theorem rangeFaults_iff (base : Addr) (m : Nat) : rangeFaults oobPolicy base m = true ↔ base.toNat + m > 0xFFF := by
  simp [rangeFaults, oobPolicy]

theorem rangeFaults_eq_false_iff (base : Addr) (m : Nat) :
    rangeFaults oobPolicy base m = false ↔ base.toNat + m ≤ 0xFFF := by
  simp [rangeFaults, oobPolicy]

/-- The fetch check of R67 at the spec's policy. -/
theorem fetchFault_eq (fa : Word) :
    fetchFault oobPolicy fa = if fa.toNat > 0x0FFE then some (if fa.toNat = 0x0FFF then firstOutside else fa) else none :=
  rfl

/-! Block transfers (R175, R176). -/

/-- A block store writes memory and nothing else. -/
theorem State.storeRegs_frame (s : State) (n : Nat) : s.storeRegs n = { s with mem := (s.storeRegs n).mem } := by
  induction n with
  | zero => rfl
  | succ k ih => rw [State.storeRegs, ih]; rfl

/-- A block load writes registers and nothing else. -/
theorem State.loadRegs_frame (s : State) (n : Nat) : s.loadRegs n = { s with v := (s.loadRegs n).v } := by
  induction n with
  | zero => rfl
  | succ k ih => rw [State.loadRegs, ih]; rfl

/-- Everything a block store does to memory: `V[i]` at `I + i` for each i below the count, all else as before. -/
theorem State.readByte_storeRegs (s : State) {n : Nat} (hn : n ≤ 16) (a : Addr) :
    (∀ i, i < n → a = dataAddr s.i i → (s.storeRegs n).readByte a = s.vx (BitVec.ofNat 4 i)) ∧
    ((∀ i, i < n → a ≠ dataAddr s.i i) → (s.storeRegs n).readByte a = s.readByte a) := by
  induction n with
  | zero => exact ⟨by intro i hi; omega, fun _ => rfl⟩
  | succ k ih =>
    obtain ⟨ih1, ih2⟩ := ih (by omega)
    have hstep : (s.storeRegs (k + 1)).readByte a =
        if a = dataAddr s.i k then s.vx (BitVec.ofNat 4 k) else (s.storeRegs k).readByte a := by
      rw [State.storeRegs, State.readByte_writeByte]
    constructor
    · intro i hi ha
      rw [hstep]
      by_cases hk : i = k
      · subst hk; rw [if_pos ha]
      · rw [if_neg (fun e => hk (dataAddr_inj (base := s.i) (by omega) (by omega) (ha ▸ e)))]
        exact ih1 i (by omega) ha
    · intro h
      rw [hstep, if_neg (h k (by omega))]
      exact ih2 (fun i hi => h i (by omega))

/-- Everything a block load does to the registers: `MEM[I + r]` in each register below the count, all else as before. -/
theorem State.vx_loadRegs (s : State) {n : Nat} (hn : n ≤ 16) (r : Nibble) :
    (s.loadRegs n).vx r = if r.toNat < n then s.readByte (dataAddr s.i r.toNat) else s.vx r := by
  induction n with
  | zero => simp [State.loadRegs]
  | succ k ih =>
    rw [State.loadRegs, State.vx_setVx, ih (by omega)]
    have hr : r = BitVec.ofNat 4 k ↔ r.toNat = k := by
      constructor
      · rintro rfl; simp; omega
      · intro h; apply BitVec.eq_of_toNat_eq; simp; omega
    by_cases h : r.toNat = k
    · rw [if_pos (hr.mpr h), if_pos (by omega), h]
    · rw [if_neg (fun e => h (hr.mp e))]
      by_cases h' : r.toNat < k
      · rw [if_pos h', if_pos (by omega)]
      · rw [if_neg h', if_neg (by omega)]

/-- A BCD store writes memory and nothing else. -/
theorem State.storeBcd_frame (s : State) (b : Byte) : s.storeBcd b = { s with mem := (s.storeBcd b).mem } := rfl

/-- Everything a BCD store does to memory (R174). -/
theorem State.readByte_storeBcd (s : State) (b : Byte) (a : Addr) :
    (s.storeBcd b).readByte a =
      if a = dataAddr s.i 2 then bcdOnes b else if a = dataAddr s.i 1 then bcdTens b
      else if a = dataAddr s.i 0 then bcdHundreds b else s.readByte a := by
  simp only [State.storeBcd, State.readByte_writeByte]

/-- The three digits as numbers. -/
theorem bcd_toNat (b : Byte) : (bcdHundreds b).toNat = b.toNat / 100 ∧ (bcdTens b).toNat = b.toNat / 10 % 10 ∧
    (bcdOnes b).toNat = b.toNat % 10 := by
  have := b.isLt
  simp only [bcdHundreds, bcdTens, bcdOnes, BitVec.toNat_ofNat]; omega

/-! Canonical memory through the shared operations. -/

theorem State.wf_storeRegs {s : State} (h : s.mem.wf = true) (n : Nat) : (s.storeRegs n).mem.wf = true := by
  induction n with
  | zero => exact h
  | succ k ih => exact State.wf_writeByte ih _ _

theorem State.wf_storeBcd {s : State} (h : s.mem.wf = true) (b : Byte) : (s.storeBcd b).mem.wf = true :=
  State.wf_writeByte (State.wf_writeByte (State.wf_writeByte h _ _) _ _) _ _

/-- LOAD keeps the canonical form, accepted or not. -/
theorem State.wf_load {s : State} (h : s.mem.wf = true) (rom : List Byte) : (s.load rom).mem.wf = true := by
  unfold State.load
  split
  · rename_i hf
    exact Memory.wf_writeBytes h (by
      have h1 : rom.length ≤ 3584 := of_decide_eq_true hf
      have h2 : programOrigin.toNat = 512 := rfl
      omega)
  · exact h

/-- The font's size and place (R7, R34). -/
theorem font_length : font.length = 80 := rfl

theorem fontBase_toNat : fontBase.toNat = 0 := rfl

/-- What RESET under `RESET_ZERO = false` leaves in memory. -/
theorem State.resetFrom_mem (u : State) : u.resetFrom.mem = Memory.writeBytes u.mem fontBase.toNat font := by
  simp only [State.resetFrom]

/-- RESET under `RESET_ZERO = false` keeps the canonical form. -/
theorem State.wf_resetFrom {u : State} (h : u.mem.wf = true) : u.resetFrom.mem.wf = true := by
  rw [State.resetFrom_mem]
  exact Memory.wf_writeBytes h (by rw [font_length, fontBase_toNat]; omega)

/-! Flags and targets as numbers. -/

theorem flagByte_toNat (c : Bool) : (flagByte c).toNat = if c then 1 else 0 := by cases c <;> rfl

theorem skipTarget_true (fa : Word) : skipTarget fa true = fa + 4 := rfl

theorem skipTarget_false (fa : Word) : skipTarget fa false = fa + 2 := rfl

theorem absTarget_toNat (nnn : Addr) : (absTarget nnn).toNat = nnn.toNat := by
  have := nnn.isLt
  simp only [absTarget, BitVec.toNat_setWidth]; omega

/-- `Bnnn`'s sum does not overflow (40_control_flow.md R124). -/
theorem indexedTarget_toNat (nnn : Addr) (b : Byte) : (indexedTarget nnn b).toNat = nnn.toNat + b.toNat := by
  have := nnn.isLt; have := b.isLt
  simp only [indexedTarget, BitVec.toNat_add, BitVec.toNat_setWidth]; omega

/-- A timer after a TICK is one less, floor at 0 (44_keys_timers.md R217). -/
theorem timerTick_toNat (t : Byte) : (timerTick t).toNat = t.toNat - 1 := by
  have := t.isLt
  unfold timerTick
  split
  · rw [BitVec.toNat_sub_of_le (by simp [BitVec.le_def]; omega)]; rfl
  · omega

end Sys2Proof.Machine
end

