-- ==== Sys2Proof/Laws/PerInstr.lean ====
section
/-! SUPPORT. Per instruction, as syntax: its word matches its row of the opcode map of 30_encoding.md R96. -/
namespace Sys2Proof.Laws.RowMatch

/-- The word of `i` matches the row that `rowOf` names (R96, R105). -/
def Statement (i : Instr) : Prop := ∃ row, opcodeRows[rowOf i]? = some row ∧ rowMatches (encode i) row = true

theorem formatA_row : ∀ op : Nibble, ∀ nnn : Addr, formatA op nnn &&& 0xF000 = formatA op 0x000 := by
  intro op nnn
  apply BitVec.eq_of_getLsbD_eq
  intro k hk
  simp only [BitVec.getLsbD_and, formatA, BitVec.getLsbD_append]
  interval_cases k <;> simp

theorem formatXK_row : ∀ op x : Nibble, ∀ kk : Byte, formatXK op x kk &&& 0xF000 = formatXK op 0x0 0x00 := by
  intro op x kk
  apply BitVec.eq_of_getLsbD_eq
  intro k hk
  simp only [BitVec.getLsbD_and, formatXK, BitVec.getLsbD_append]
  interval_cases k <;> simp

theorem formatX_row : ∀ op x : Nibble, ∀ kk : Byte, formatXK op x kk &&& 0xF0FF = formatXK op 0x0 kk := by
  intro op x kk
  apply BitVec.eq_of_getLsbD_eq
  intro k hk
  simp only [BitVec.getLsbD_and, formatXK, BitVec.getLsbD_append]
  interval_cases k <;> simp

theorem formatXY_row : ∀ op x y n : Nibble, formatXY op x y n &&& 0xF00F = formatXY op 0x0 0x0 n := by
  intro op x y n
  apply BitVec.eq_of_getLsbD_eq
  intro k hk
  simp only [BitVec.getLsbD_and, formatXY, BitVec.getLsbD_append]
  interval_cases k <;> simp

theorem formatXYN_row : ∀ x y n : Nibble, formatXY 0xD x y n &&& 0xF000 = 0xD000 := by decide +kernel

theorem cls : Statement .cls :=
  ⟨_, rfl, rfl⟩
theorem ret : Statement .ret :=
  ⟨_, rfl, rfl⟩
theorem jp (nnn : Addr) : Statement (.jp nnn) :=
  ⟨_, rfl, by simp only [rowMatches, encode, formatA_row]; rfl⟩
theorem call (nnn : Addr) : Statement (.call nnn) :=
  ⟨_, rfl, by simp only [rowMatches, encode, formatA_row]; rfl⟩
theorem seKk (x : Nibble) (kk : Byte) : Statement (.seKk x kk) :=
  ⟨_, rfl, by simp only [rowMatches, encode, formatXK_row]; rfl⟩
theorem sneKk (x : Nibble) (kk : Byte) : Statement (.sneKk x kk) :=
  ⟨_, rfl, by simp only [rowMatches, encode, formatXK_row]; rfl⟩
theorem seVy (x y : Nibble) : Statement (.seVy x y) :=
  ⟨_, rfl, by simp only [rowMatches, encode, formatXY_row]; rfl⟩
theorem ldKk (x : Nibble) (kk : Byte) : Statement (.ldKk x kk) :=
  ⟨_, rfl, by simp only [rowMatches, encode, formatXK_row]; rfl⟩
theorem addKk (x : Nibble) (kk : Byte) : Statement (.addKk x kk) :=
  ⟨_, rfl, by simp only [rowMatches, encode, formatXK_row]; rfl⟩
theorem ldVy (x y : Nibble) : Statement (.ldVy x y) :=
  ⟨_, rfl, by simp only [rowMatches, encode, formatXY_row]; rfl⟩
theorem orVy (x y : Nibble) : Statement (.orVy x y) :=
  ⟨_, rfl, by simp only [rowMatches, encode, formatXY_row]; rfl⟩
theorem andVy (x y : Nibble) : Statement (.andVy x y) :=
  ⟨_, rfl, by simp only [rowMatches, encode, formatXY_row]; rfl⟩
theorem xorVy (x y : Nibble) : Statement (.xorVy x y) :=
  ⟨_, rfl, by simp only [rowMatches, encode, formatXY_row]; rfl⟩
theorem addVy (x y : Nibble) : Statement (.addVy x y) :=
  ⟨_, rfl, by simp only [rowMatches, encode, formatXY_row]; rfl⟩
theorem subVy (x y : Nibble) : Statement (.subVy x y) :=
  ⟨_, rfl, by simp only [rowMatches, encode, formatXY_row]; rfl⟩
theorem shr (x y : Nibble) : Statement (.shr x y) :=
  ⟨_, rfl, by simp only [rowMatches, encode, formatXY_row]; rfl⟩
theorem subnVy (x y : Nibble) : Statement (.subnVy x y) :=
  ⟨_, rfl, by simp only [rowMatches, encode, formatXY_row]; rfl⟩
theorem shl (x y : Nibble) : Statement (.shl x y) :=
  ⟨_, rfl, by simp only [rowMatches, encode, formatXY_row]; rfl⟩
theorem sneVy (x y : Nibble) : Statement (.sneVy x y) :=
  ⟨_, rfl, by simp only [rowMatches, encode, formatXY_row]; rfl⟩
theorem ldI (nnn : Addr) : Statement (.ldI nnn) :=
  ⟨_, rfl, by simp only [rowMatches, encode, formatA_row]; rfl⟩
theorem jpV0 (nnn : Addr) : Statement (.jpV0 nnn) :=
  ⟨_, rfl, by simp only [rowMatches, encode, formatA_row]; rfl⟩
theorem rnd (x : Nibble) (kk : Byte) : Statement (.rnd x kk) :=
  ⟨_, rfl, by simp only [rowMatches, encode, formatXK_row]; rfl⟩
theorem drw (x y n : Nibble) : Statement (.drw x y n) :=
  ⟨_, rfl, by simp only [rowMatches, encode, formatXYN_row]; rfl⟩
theorem skp (x : Nibble) : Statement (.skp x) :=
  ⟨_, rfl, by simp only [rowMatches, encode, formatX_row]; rfl⟩
theorem sknp (x : Nibble) : Statement (.sknp x) :=
  ⟨_, rfl, by simp only [rowMatches, encode, formatX_row]; rfl⟩
theorem ldVxDt (x : Nibble) : Statement (.ldVxDt x) :=
  ⟨_, rfl, by simp only [rowMatches, encode, formatX_row]; rfl⟩
theorem ldVxK (x : Nibble) : Statement (.ldVxK x) :=
  ⟨_, rfl, by simp only [rowMatches, encode, formatX_row]; rfl⟩
theorem ldDtVx (x : Nibble) : Statement (.ldDtVx x) :=
  ⟨_, rfl, by simp only [rowMatches, encode, formatX_row]; rfl⟩
theorem ldStVx (x : Nibble) : Statement (.ldStVx x) :=
  ⟨_, rfl, by simp only [rowMatches, encode, formatX_row]; rfl⟩
theorem addIVx (x : Nibble) : Statement (.addIVx x) :=
  ⟨_, rfl, by simp only [rowMatches, encode, formatX_row]; rfl⟩
theorem ldFVx (x : Nibble) : Statement (.ldFVx x) :=
  ⟨_, rfl, by simp only [rowMatches, encode, formatX_row]; rfl⟩
theorem ldBVx (x : Nibble) : Statement (.ldBVx x) :=
  ⟨_, rfl, by simp only [rowMatches, encode, formatX_row]; rfl⟩
theorem ldMemVx (x : Nibble) : Statement (.ldMemVx x) :=
  ⟨_, rfl, by simp only [rowMatches, encode, formatX_row]; rfl⟩
theorem ldVxMem (x : Nibble) : Statement (.ldVxMem x) :=
  ⟨_, rfl, by simp only [rowMatches, encode, formatX_row]; rfl⟩

end Sys2Proof.Laws.RowMatch
end

