-- ==== Sys2Proof/Laws/Step.lean ====
section
/-! SUPPORT. What a STEP and a step can do, said once: the cases of FETCH and DECODE, and the cases of the next operation. -/
namespace Sys2Proof.Machine

/-- A halted core ends its STEP at once (60_exceptions.md R246). -/
theorem State.frontEnd_halted {s : State} (h : s.haltRec.halt = true) : s.frontEnd = .inl s.stayHalted := by
  simp [State.frontEnd, h]

/-- A running core with PC past 0x0FFE faults in FETCH (20_memory.md R67). -/
theorem State.frontEnd_fetchFault {s : State} (h : s.haltRec.halt = false) (hpc : s.pc.toNat > 0x0FFE) :
    s.frontEnd =
      .inl (s.raise .addressOutOfRange 0x0000 (if s.pc.toNat = 0x0FFF then firstOutside else s.pc)) := by
  simp [State.frontEnd, h, fetchFault_eq, hpc]

/-- A running core that can fetch decodes the word at PC (R232). -/
theorem State.frontEnd_fetched {s : State} (h : CanFetch s) :
    s.frontEnd =
      match decodeWord s.fetchWord with
      | .error _ => .inl (s.raise .unknownInstruction s.fetchWord 0x0000)
      | .ok i => .inr i := by
  have hpc : ¬ s.pc.toNat > 0x0FFE := by have := h.2; omega
  simp only [State.frontEnd, h.1, fetchFault_eq, hpc, if_false]
  cases decodeWord s.fetchWord <;> rfl

/-- Everything before EXECUTE can do (R248): the halted core, the fetch fault, the unknown word, or an instruction to run. -/
theorem State.frontEnd_cases (s : State) :
    (s.haltRec.halt = true ∧ s.frontEnd = .inl s.stayHalted) ∨
    (s.haltRec.halt = false ∧ s.pc.toNat > 0x0FFE ∧
      s.frontEnd =
        .inl (s.raise .addressOutOfRange 0x0000 (if s.pc.toNat = 0x0FFF then firstOutside else s.pc))) ∨
    (CanFetch s ∧ (∃ e, decodeWord s.fetchWord = .error e) ∧
      s.frontEnd = .inl (s.raise .unknownInstruction s.fetchWord 0x0000)) ∨
    (CanFetch s ∧ ∃ i, decodeWord s.fetchWord = .ok i ∧ s.frontEnd = .inr i) := by
  cases hh : s.haltRec.halt with
  | true => exact .inl ⟨rfl, State.frontEnd_halted hh⟩
  | false =>
    by_cases hpc : s.pc.toNat > 0x0FFE
    · exact .inr (.inl ⟨rfl, hpc, State.frontEnd_fetchFault hh hpc⟩)
    · have hc : CanFetch s := ⟨hh, by omega⟩
      have hf := State.frontEnd_fetched hc
      cases hd : decodeWord s.fetchWord with
      | error e => rw [hd] at hf; exact .inr (.inr (.inl ⟨hc, ⟨e, rfl⟩, hf⟩))
      | ok i => rw [hd] at hf; exact .inr (.inr (.inr ⟨hc, i, rfl, hf⟩))

/-- The cases of one step (log 1): the operation at the head of the schedule, or a STEP with free inputs. -/
theorem step_cases (s : State) :
    (s.schedule = [] ∧ step s = stepOp { s with freeIdx := s.freeIdx + 1, inp := freeInputs s.freeIdx }) ∨
    (∃ inp rest, s.schedule = .step inp :: rest ∧ step s = stepOp { s with schedule := rest, inp := inp }) ∨
    (∃ rest, s.schedule = .reset :: rest ∧ step s = .next { s with schedule := rest }.doReset) ∨
    (∃ rom rest, s.schedule = .load rom :: rest ∧ step s = .next ({ s with schedule := rest }.load rom)) ∨
    (∃ rest, s.schedule = .tick :: rest ∧ step s = .next { s with schedule := rest }.tick) ∨
    (∃ rest, s.schedule = .snapshot :: rest ∧ step s = .next { s with schedule := rest }.snapshot) := by
  unfold step State.takeOp
  cases hs : s.schedule with
  | nil => exact .inl ⟨rfl, rfl⟩
  | cons op rest =>
    cases op with
    | reset => exact .inr (.inr (.inl ⟨rest, rfl, rfl⟩))
    | load rom => exact .inr (.inr (.inr (.inl ⟨rom, rest, rfl, rfl⟩)))
    | step inp => exact .inr (.inl ⟨inp, rest, rfl, rfl⟩)
    | tick => exact .inr (.inr (.inr (.inr (.inl ⟨rest, rfl, rfl⟩))))
    | snapshot => exact .inr (.inr (.inr (.inr (.inr ⟨rest, rfl, rfl⟩))))

/-! The same, by what the schedule lists. -/

theorem step_of_empty {s : State} (h : s.schedule = []) :
    step s = stepOp { s with freeIdx := s.freeIdx + 1, inp := freeInputs s.freeIdx } := by
  unfold step State.takeOp; rw [h]; rfl

theorem step_of_step {s : State} {inp : Inputs} {rest : List HostOp} (h : s.schedule = .step inp :: rest) :
    step s = stepOp { s with schedule := rest, inp := inp } := by
  unfold step State.takeOp; rw [h]; rfl

theorem step_of_reset {s : State} {rest : List HostOp} (h : s.schedule = .reset :: rest) :
    step s = .next { s with schedule := rest }.doReset := by
  unfold step State.takeOp; rw [h]

theorem step_of_load {s : State} {rom : List Byte} {rest : List HostOp} (h : s.schedule = .load rom :: rest) :
    step s = .next ({ s with schedule := rest }.load rom) := by
  unfold step State.takeOp; rw [h]

theorem step_of_tick {s : State} {rest : List HostOp} (h : s.schedule = .tick :: rest) :
    step s = .next { s with schedule := rest }.tick := by
  unfold step State.takeOp; rw [h]

theorem step_of_snapshot {s : State} {rest : List HostOp} (h : s.schedule = .snapshot :: rest) :
    step s = .next { s with schedule := rest }.snapshot := by
  unfold step State.takeOp; rw [h]

/-! LOAD (70_reset_and_hazards.md R275, R276). -/

theorem programFits_iff (rom : List Byte) : programFits rom = true ↔ rom.length ≤ 3584 := decide_eq_true_iff

theorem State.load_accepted (s : State) {rom : List Byte} (h : rom.length ≤ 3584) :
    s.load rom =
      { s with mem := s.mem.writeBytes programOrigin.toNat rom, pc := programOrigin, report := .load true } := by
  unfold State.load; rw [if_pos ((programFits_iff rom).mpr h)]

theorem State.load_refused (s : State) {rom : List Byte} (h : rom.length > 3584) :
    s.load rom = { s with report := .load false } := by
  unfold State.load
  rw [if_neg (fun hf => by have := (programFits_iff rom).mp hf; omega)]

/-- Everything an accepted LOAD does to memory. -/
theorem State.read_load (s : State) {rom : List Byte} (h : rom.length ≤ 3584) (k : Nat) :
    (s.load rom).mem.read k =
      if 0x200 ≤ k ∧ k < 0x200 + rom.length then rom.getD (k - 0x200) 0 else s.mem.read k := by
  rw [State.load_accepted s h]
  exact Memory.read_writeBytes rom s.mem 512 k

/-- The bytes a fetch reads are those at PC and PC + 1 (20_memory.md R62). -/
theorem State.fetchWord_eq {s : State} (h : s.pc.toNat ≤ 0x0FFE) :
    s.fetchWord = wordOfBytes (s.mem.read s.pc.toNat) (s.mem.read (s.pc.toNat + 1)) := by
  have h1 : (fetchCell s.pc).toNat = s.pc.toNat := by simp only [fetchCell, BitVec.toNat_setWidth]; omega
  have h2 : (fetchCell (s.pc + 1)).toNat = s.pc.toNat + 1 := by
    have h1 : (1 : Word).toNat = 1 := rfl
    simp only [fetchCell, BitVec.toNat_setWidth, BitVec.toNat_add, h1]; omega
  simp only [State.fetchWord, State.readByte, h1, h2]

/-- The invariant looks at memory, PC, the stack slots and the halt record only. -/
theorem State.inv_congr {s t : State} (h : s.Inv) (hm : t.mem = s.mem) (hp : t.pc = s.pc) (hs : t.stack = s.stack)
    (hr : t.haltRec = s.haltRec) : t.Inv :=
  ⟨hm ▸ h.memWf, hp ▸ h.pcBound, fun k => by simpa only [hs] using h.stackBound k, by simpa only [hr] using h.running,
    by simpa only [hr] using h.halted⟩

/-- PC after the advance of FETCH, where the fetch was inside memory: no wrap-around (10_state.md R27). -/
theorem pc_advance_toNat {s : State} (h : s.pc.toNat ≤ 0x0FFE) :
    (s.pc + 2).toNat = s.pc.toNat + 2 ∧ (s.pc + 4).toNat = s.pc.toNat + 4 := by
  constructor <;> simp <;> omega

/-- A fault is precise (60_exceptions.md R241). -/
theorem State.raise_endsInFault (s : State) (c : Cause) (w a : Word) : EndsInFault c w a s (s.raise c w a) :=
  ⟨rfl, rfl, rfl, ⟨fun _ _ => rfl, rfl, ⟨rfl, rfl⟩, ⟨rfl, fun _ => rfl⟩, fun _ _ => rfl, fun _ => rfl⟩, rfl, rfl, rfl⟩

/-- `withFetchWord` does what it is for: the next STEP fetches that word. -/
theorem State.placeWord_canFetch {s : State} (h : s.pc.toNat ≤ 0x0FFE) (w : Word) : CanFetch (s.placeWord w) := ⟨rfl, h⟩

end Sys2Proof.Machine
end

