-- ==== Sys2Proof/Tests/Slice0.lean ====
section
/-! SUPPORT. The model's own tests. Every expected result is a vector of 95_test_vectors.md, named in the docstring, or
the number a rule of the spec states. Then the witnesses: for each statement with hypotheses, a concrete state and
operands that meet them all, one for each clause. -/
namespace Sys2Proof.Tests
open Sys2Proof Sys2Proof.Machine

/-! Helpers. -/

/-- Inputs of a STEP that matter to no test they stand in. -/
def quiet : Inputs := ⟨0x0000, none, 0x00⟩

/-- The reset state with these bytes at `pc`, PC there, and one STEP requested. -/
def at' (pc : Word) (bytes : List Byte) (inp : Inputs := quiet) : State :=
  { State.reset with pc := pc, mem := Memory.writeBytes [] pc.toNat bytes, schedule := [.step inp] }

/-- Registers set from a list. -/
def regs (s : State) (l : List (Nibble × Byte)) : State := l.foldl (fun s p => s.setVx p.1 p.2) s

/-- Memory bytes set from an address upwards. -/
def bytesAt (s : State) (a : Nat) (l : List Byte) : State := { s with mem := s.mem.writeBytes a l }

/-- The step answers a next state with this property. -/
def gives (s : State) (p : State → Bool) : Bool :=
  match step s with
  | .next t => p t
  | _ => false

/-- The status, PC, and some registers. -/
def okAt (pc : Word) (l : List (Nibble × Byte)) (t : State) : Bool :=
  t.report == .step .ok false && t.pc == pc && l.all (fun p => t.vx p.1 == p.2)

/-- The halt record and PC of a fault. -/
def faulted (c : Cause) (instr epc addr : Word) (t : State) : Bool :=
  t.haltRec == ⟨true, c, instr, epc, addr⟩ && t.report == .step .fault false && t.pc == epc

/-- The cells that are on, as (row, column). -/
def cellsOn (fb : Framebuffer) : List (Nat × Nat) :=
  (fb.cells.zipIdx.filter (fun p => p.1)).map (fun p => (p.2 / 64, p.2 % 64))

/-- A framebuffer with these cells on. -/
def fbOn (l : List (Fin 32 × Fin 64)) : Framebuffer := l.foldl (fun f p => f.setCell p.1 p.2 true) Framebuffer.cleared

/-! The checks of WellFormed refuse. -/

/-- One word of each set of R98 (T-E6, T-E16, T-E29, T-E39, T-E50, T-E66). -/
theorem test_illegal_words_refused :
    [0x00FE, 0x5121, 0x8128, 0x9121, 0xE19F, 0xF066].map wordLegal = [false, false, false, false, false, false] := by
  decide

/-- R276: 3585 bytes do not fit, 3584 do (T-F10, T-F11). -/
theorem test_program_too_large :
    programFits (List.replicate 3585 0x00) = false ∧ programFits (List.replicate 3584 0x00) = true := by
  constructor <;> simp only [programFits, maxProgramBytes, List.length_replicate] <;> rfl

/-- R7: a font at 0x1C0 leaves the reserved region, and a font has 80 bytes. -/
theorem test_font_checks :
    fontFits 0x1C0 font = false ∧ fontFits 0x000 (font.take 79) = false ∧ fontFits fontBase font = true := by decide

/-! Decoding: every constructor from a word written out from R96 (T-E2 to T-E70). -/

theorem test_decode_control :
    decodeWord 0x00E0 = .ok .cls ∧ decodeWord 0x00EE = .ok .ret ∧ decodeWord 0x10E0 = .ok (.jp 0x0E0) ∧
    decodeWord 0x2FFF = .ok (.call 0xFFF) ∧ decodeWord 0x332A = .ok (.seKk 0x3 0x2A) ∧
    decodeWord 0x432B = .ok (.sneKk 0x3 0x2B) ∧ decodeWord 0x5120 = .ok (.seVy 0x1 0x2) ∧
    decodeWord 0x9120 = .ok (.sneVy 0x1 0x2) ∧ decodeWord 0xBFFF = .ok (.jpV0 0xFFF) := by decide

theorem test_decode_alu :
    decodeWord 0x6103 = .ok (.ldKk 0x1 0x03) ∧ decodeWord 0x7220 = .ok (.addKk 0x2 0x20) ∧
    decodeWord 0x8120 = .ok (.ldVy 0x1 0x2) ∧ decodeWord 0x8121 = .ok (.orVy 0x1 0x2) ∧
    decodeWord 0x8122 = .ok (.andVy 0x1 0x2) ∧ decodeWord 0x8123 = .ok (.xorVy 0x1 0x2) ∧
    decodeWord 0x8124 = .ok (.addVy 0x1 0x2) ∧ decodeWord 0x8125 = .ok (.subVy 0x1 0x2) ∧
    decodeWord 0x8126 = .ok (.shr 0x1 0x2) ∧ decodeWord 0x8127 = .ok (.subnVy 0x1 0x2) ∧
    decodeWord 0x812E = .ok (.shl 0x1 0x2) ∧ decodeWord 0xC00F = .ok (.rnd 0x0 0x0F) := by decide

theorem test_decode_rest :
    decodeWord 0xA200 = .ok (.ldI 0x200) ∧ decodeWord 0xD12A = .ok (.drw 0x1 0x2 0xA) ∧
    decodeWord 0xE19E = .ok (.skp 0x1) ∧ decodeWord 0xE1A1 = .ok (.sknp 0x1) ∧
    decodeWord 0xF207 = .ok (.ldVxDt 0x2) ∧ decodeWord 0xF30A = .ok (.ldVxK 0x3) ∧
    decodeWord 0xF215 = .ok (.ldDtVx 0x2) ∧ decodeWord 0xF018 = .ok (.ldStVx 0x0) ∧
    decodeWord 0xF21E = .ok (.addIVx 0x2) ∧ decodeWord 0xF329 = .ok (.ldFVx 0x3) ∧
    decodeWord 0xF033 = .ok (.ldBVx 0x0) ∧ decodeWord 0xF255 = .ok (.ldMemVx 0x2) ∧
    decodeWord 0xFF65 = .ok (.ldVxMem 0xF) := by decide

/-- T-E1, T-E8, T-E32, T-E54, T-E71: refused by name, with the raw word. -/
theorem test_decode_refused :
    [0x0000, 0x01EE, 0x812B, 0xE1FF, 0xFFFF].map decodeWord =
      [.error (.unknownInstruction 0x0000), .error (.unknownInstruction 0x01EE), .error (.unknownInstruction 0x812B),
       .error (.unknownInstruction 0xE1FF), .error (.unknownInstruction 0xFFFF)] := by decide

/-- The host's numbering of a one-word instruction, and a byte string too short to decode. -/
theorem test_decode_forms :
    decodeTableWord 16 0x8014 = some (.addVy 0x0 0x1) ∧ decodeTableWord 16 0x0000 = none ∧
    decodeBytes [0x60, 0x05, 0x61] = .ok (.ldKk 0x0 0x05, [0x61]) ∧ decodeBytes [0x60] = .error .truncated := by decide

/-! One STEP of each instruction. -/

/-- T-C4. -/
theorem test_jp : gives (at' 0x0200 [0x12, 0x34]) (okAt 0x0234 []) = true := by decide

/-- T-C6. -/
theorem test_jp_to_last_byte : gives (at' 0x0200 [0x1F, 0xFF]) (okAt 0x0FFF []) = true := by decide

/-- T-C8. -/
theorem test_call : gives (at' 0x0200 [0x23, 0x00]) (fun t => okAt 0x0300 [] t && t.sp.val == 1 && t.stack[0] == 0x0202) = true := by decide

/-- T-C10. -/
theorem test_call_overflows : gives { at' 0x0400 [0x23, 0x00] with sp := 16 } (fun t =>
    faulted .stackOverflow 0x2300 0x0400 0x0000 t && t.sp.val == 16) = true := by decide

/-- T-C3: the slot above the new top keeps its value. -/
theorem test_ret : gives { at' 0x0200 [0x00, 0xEE] with sp := 16, stack := (Vector.replicate 16 0x0202).set 15 0x0ABC }
    (fun t => okAt 0x0ABC [] t && t.sp.val == 15 && t.stack[15] == 0x0ABC) = true := by decide

/-- T-C2. -/
theorem test_ret_underflows : gives (at' 0x0300 [0x00, 0xEE]) (fun t => faulted .stackUnderflow 0x00EE 0x0300 0x0000 t && t.sp.val == 0) = true := by decide

/-- T-C13: not masked, no flag. -/
theorem test_jpV0 : gives (regs (at' 0x0200 [0xBF, 0xFF]) [(0x0, 0xFF)]) (okAt 0x10FE [(0xF, 0x00)]) = true := by decide

/-- T-C15. -/
theorem test_se_kk_taken : gives (regs (at' 0x0200 [0x33, 0x2A]) [(0x3, 0x2A)]) (okAt 0x0204 []) = true := by decide

/-- T-C26. -/
theorem test_se_kk_at_the_end : gives (at' 0x0FFE [0x30, 0x00]) (okAt 0x1002 []) = true := by decide

/-- T-C17. -/
theorem test_sne_kk_not_taken : gives (regs (at' 0x0200 [0x43, 0x2A]) [(0x3, 0x2A)]) (okAt 0x0202 []) = true := by decide

/-- T-C18. -/
theorem test_sne_kk_taken : gives (regs (at' 0x0200 [0x43, 0x2B]) [(0x3, 0x2A)]) (okAt 0x0204 []) = true := by decide

/-- T-C19. -/
theorem test_se_vy_taken : gives (regs (at' 0x0200 [0x51, 0x20]) [(0x1, 0x07), (0x2, 0x07)]) (okAt 0x0204 []) = true := by decide

/-- T-C20. -/
theorem test_se_vy_not_taken : gives (regs (at' 0x0200 [0x51, 0x20]) [(0x1, 0x07), (0x2, 0x08)]) (okAt 0x0202 []) = true := by decide

/-- T-C22. -/
theorem test_sne_vy_taken : gives (regs (at' 0x0200 [0x91, 0x20]) [(0x1, 0x07), (0x2, 0x08)]) (okAt 0x0204 []) = true := by decide

/-- T-C24. -/
theorem test_sne_vy_not_taken : gives (regs (at' 0x0200 [0x91, 0x10]) [(0x1, 0x07)]) (okAt 0x0202 []) = true := by decide

/-- T-A1. -/
theorem test_ld_kk : gives (at' 0x0200 [0x60, 0x05]) (okAt 0x0202 [(0x0, 0x05)]) = true := by decide

/-- T-A48. -/
theorem test_ld_kk_vf : gives (regs (at' 0x0200 [0x6F, 0x00]) [(0xF, 0x01)]) (okAt 0x0202 [(0xF, 0x00)]) = true := by decide

/-- T-A2: no flag. -/
theorem test_add_kk_wraps : gives (regs (at' 0x0200 [0x72, 0x20]) [(0x2, 0xF0), (0xF, 0x01)]) (okAt 0x0202 [(0x2, 0x10), (0xF, 0x01)]) = true := by decide

/-- T-A49. -/
theorem test_add_kk_vf : gives (regs (at' 0x0200 [0x7F, 0xFF]) [(0xF, 0x01)]) (okAt 0x0202 [(0xF, 0x00)]) = true := by decide

/-- T-A6. -/
theorem test_ld_vy : gives (regs (at' 0x0200 [0x80, 0x10]) [(0x1, 0x33)]) (okAt 0x0202 [(0x0, 0x33), (0xF, 0x00)]) = true := by decide

/-- T-A7. -/
theorem test_or : gives (regs (at' 0x0200 [0x80, 0x11]) [(0x0, 0xF0), (0x1, 0x0F), (0xF, 0x01)]) (okAt 0x0202 [(0x0, 0xFF), (0xF, 0x01)]) = true := by decide

/-- T-A8. -/
theorem test_and : gives (regs (at' 0x0200 [0x80, 0x12]) [(0x0, 0xF3), (0x1, 0x3F), (0xF, 0x01)]) (okAt 0x0202 [(0x0, 0x33), (0xF, 0x01)]) = true := by decide

/-- T-A9. -/
theorem test_xor : gives (regs (at' 0x0200 [0x80, 0x13]) [(0x0, 0xFF), (0x1, 0x0F), (0xF, 0x01)]) (okAt 0x0202 [(0x0, 0xF0), (0xF, 0x01)]) = true := by decide

/-- T-A12. -/
theorem test_add_vy_carry : gives (regs (at' 0x0200 [0x80, 0x14]) [(0x0, 0xFF), (0x1, 0x01)]) (okAt 0x0202 [(0x0, 0x00), (0xF, 0x01)]) = true := by decide

/-- T-A17: the flag is the later write. -/
theorem test_add_vy_into_vf : gives (regs (at' 0x0200 [0x8F, 0x14]) [(0x1, 0x20), (0xF, 0xF0)]) (okAt 0x0202 [(0xF, 0x01)]) = true := by decide

/-- T-A22. -/
theorem test_sub_borrow : gives (regs (at' 0x0200 [0x80, 0x15]) [(0x0, 0x00), (0x1, 0x01), (0xF, 0x01)]) (okAt 0x0202 [(0x0, 0xFF), (0xF, 0x00)]) = true := by decide

/-- T-A23. -/
theorem test_sub_equal : gives (regs (at' 0x0200 [0x80, 0x15]) [(0x0, 0x10), (0x1, 0x10)]) (okAt 0x0202 [(0x0, 0x00), (0xF, 0x01)]) = true := by decide

/-- T-A27: y is ignored. -/
theorem test_shr : gives (regs (at' 0x0200 [0x80, 0x16]) [(0x0, 0x05), (0x1, 0xAA)]) (okAt 0x0202 [(0x0, 0x02), (0xF, 0x01)]) = true := by decide

/-- T-A32. -/
theorem test_shr_vf : gives (regs (at' 0x0200 [0x8F, 0x16]) [(0xF, 0x02)]) (okAt 0x0202 [(0xF, 0x00)]) = true := by decide

/-- T-A33. -/
theorem test_subn : gives (regs (at' 0x0200 [0x80, 0x17]) [(0x0, 0x03), (0x1, 0x0A)]) (okAt 0x0202 [(0x0, 0x07), (0xF, 0x01)]) = true := by decide

/-- T-A34. -/
theorem test_subn_borrow : gives (regs (at' 0x0200 [0x80, 0x17]) [(0x0, 0x0A), (0x1, 0x03), (0xF, 0x01)]) (okAt 0x0202 [(0x0, 0xF9), (0xF, 0x00)]) = true := by decide

/-- T-A38: y is ignored. -/
theorem test_shl : gives (regs (at' 0x0200 [0x80, 0x1E]) [(0x0, 0x81), (0x1, 0x20)]) (okAt 0x0202 [(0x0, 0x02), (0xF, 0x01)]) = true := by decide

/-- T-A41. -/
theorem test_shl_no_carry : gives (regs (at' 0x0200 [0x80, 0x1E]) [(0x0, 0x40), (0xF, 0x01)]) (okAt 0x0202 [(0x0, 0x80), (0xF, 0x00)]) = true := by decide

/-- T-A44. -/
theorem test_rnd : gives (at' 0x0200 [0xC0, 0x0F] ⟨0, none, 0xA7⟩) (okAt 0x0202 [(0x0, 0x07)]) = true := by decide

/-- T-A45. -/
theorem test_rnd_zero_mask : gives (regs (at' 0x0200 [0xC0, 0x00] ⟨0, none, 0xFF⟩) [(0x0, 0x55)]) (okAt 0x0202 [(0x0, 0x00)]) = true := by decide

/-- T-M2. -/
theorem test_ld_i : gives { regs (at' 0x0200 [0xAF, 0xFF]) [] with i := 0x123 } (fun t => okAt 0x0202 [] t && t.i == 0xFFF) = true := by decide

/-- T-M4. -/
theorem test_add_i : gives { regs (at' 0x0200 [0xF2, 0x1E]) [(0x2, 0x04)] with i := 0x300 } (fun t => okAt 0x0202 [] t && t.i == 0x304) = true := by decide

/-- T-M6: no flag. -/
theorem test_add_i_wraps : gives { regs (at' 0x0200 [0xF0, 0x1E]) [(0x0, 0xFF), (0xF, 0x01)] with i := 0xFFF } (fun t => okAt 0x0202 [(0xF, 0x01)] t && t.i == 0x0FE) = true := by decide

/-- T-M9. -/
theorem test_ld_f : gives { regs (at' 0x0200 [0xF3, 0x29]) [(0x3, 0x0A)] with i := 0x123 } (fun t => okAt 0x0202 [] t && t.i == 0x032) = true := by decide

/-- T-M12. -/
theorem test_ld_f_low_nibble : gives { regs (at' 0x0200 [0xF3, 0x29]) [(0x3, 0xFF)] with i := 0x123 } (fun t => okAt 0x0202 [] t && t.i == 0x04B) = true := by decide

/-- T-M18. -/
theorem test_bcd_at_the_end : gives { regs (at' 0x0200 [0xF0, 0x33]) [(0x0, 0x7B)] with i := 0xFFD } (fun t => okAt 0x0202 [] t &&
    [0xFFD, 0xFFE, 0xFFF].map t.mem.read == [0x01, 0x02, 0x03] && t.i == 0xFFD) = true := by decide

/-- T-M19. -/
theorem test_bcd_out_of_range : gives { regs (at' 0x0200 [0xF0, 0x33]) [(0x0, 0x7B)] with i := 0xFFE } (fun t =>
    faulted .addressOutOfRange 0xF033 0x0200 0x1000 t && t.mem.read 0xFFE == 0x00) = true := by decide

/-- T-M22: V3 is not stored, I stays. -/
theorem test_block_store : gives { regs (at' 0x0200 [0xF2, 0x55]) [(0x0, 0x02), (0x1, 0x05), (0x2, 0x04), (0x3, 0x77)] with i := 0x304 }
    (fun t => okAt 0x0202 [] t && [0x304, 0x305, 0x306, 0x307].map t.mem.read == [0x02, 0x05, 0x04, 0x00] && t.i == 0x304) = true := by decide

/-- T-M26. -/
theorem test_block_store_out_of_range : gives { regs (at' 0x0200 [0xF1, 0x55]) [(0x0, 0x12), (0x1, 0x34)] with i := 0xFFF } (fun t =>
    faulted .addressOutOfRange 0xF155 0x0200 0x1000 t && t.mem.read 0xFFF == 0x00) = true := by decide

/-- T-M28: V3 is not loaded. -/
theorem test_block_load : gives { bytesAt (regs (at' 0x0200 [0xF2, 0x65]) [(0x3, 0x77)]) 0x300 [0x02, 0x05, 0x04, 0x99] with i := 0x300 }
    (fun t => okAt 0x0202 [(0x0, 0x02), (0x1, 0x05), (0x2, 0x04), (0x3, 0x77)] t && t.i == 0x300) = true := by decide

/-- T-M32. -/
theorem test_block_load_of_the_font : gives { at' 0x0200 [0xF4, 0x65] with i := 0x000 }
    (okAt 0x0202 [(0x0, 0xF0), (0x1, 0x90), (0x2, 0x90), (0x3, 0x90), (0x4, 0xF0)]) = true := by decide

/-- T-D23, on four cells: VF is not written. -/
theorem test_cls : gives { regs (at' 0x0200 [0x00, 0xE0]) [(0xF, 0x01)] with fb := fbOn [(0, 0), (0, 63), (31, 0), (31, 63)] }
    (fun t => okAt 0x0202 [(0xF, 0x01)] t && cellsOn t.fb == []) = true := by decide +kernel

/-- T-D7. -/
theorem test_drw_wraps_both_ways : gives { bytesAt (regs (at' 0x0200 [0xD0, 0x12]) [(0x0, 0x3E), (0x1, 0x1F)]) 0x300 [0xFF, 0x81] with i := 0x300 }
    (fun t => okAt 0x0202 [(0xF, 0x00)] t && cellsOn t.fb ==
      [(0, 5), (0, 62), (31, 0), (31, 1), (31, 2), (31, 3), (31, 4), (31, 5), (31, 62), (31, 63)]) = true := by decide +kernel

/-- T-D12. -/
theorem test_drw_collides : gives { bytesAt (at' 0x0200 [0xD0, 0x11]) 0x300 [0x3C] with i := 0x300, fb := fbOn [(0, 0), (0, 1), (0, 2), (0, 3)] }
    (fun t => okAt 0x0202 [(0xF, 0x01)] t && cellsOn t.fb == [(0, 0), (0, 1), (0, 4), (0, 5)]) = true := by decide +kernel

/-- T-K6. -/
theorem test_skp_low_nibble : gives (regs (at' 0x0200 [0xE1, 0x9E] ⟨0x0020, none, 0⟩) [(0x1, 0x15)]) (okAt 0x0204 []) = true := by decide

/-- T-K3. -/
theorem test_skp_not_taken : gives (regs (at' 0x0200 [0xE1, 0x9E] ⟨0xFFDF, none, 0⟩) [(0x1, 0x05)]) (okAt 0x0202 []) = true := by decide

/-- T-K4. -/
theorem test_sknp_taken : gives (regs (at' 0x0200 [0xE1, 0xA1] ⟨0x0000, none, 0⟩) [(0x1, 0x05)]) (okAt 0x0204 []) = true := by decide

/-- T-K7. -/
theorem test_sknp_low_nibble : gives (regs (at' 0x0200 [0xE1, 0xA1] ⟨0x0020, none, 0⟩) [(0x1, 0xF5)]) (okAt 0x0202 []) = true := by decide

/-- T-K15: BLOCKED although keys are down. -/
theorem test_wait_blocks : gives (regs (at' 0x0210 [0xF3, 0x0A] ⟨0xFFFF, none, 0⟩) [(0x3, 0xAA)]) (fun t =>
    t.report == .step .blocked false && t.pc == 0x0210 && t.vx 0x3 == 0xAA) = true := by decide

/-- T-K11: KEY_ACK. -/
theorem test_wait_takes_the_key : gives (regs (at' 0x0210 [0xF3, 0x0A] ⟨0x0000, some 0x7, 0⟩) [(0x3, 0xAA)]) (fun t =>
    t.report == .step .ok true && t.pc == 0x0212 && t.vx 0x3 == 0x07) = true := by decide

/-- T-K16. -/
theorem test_ld_vx_dt : gives { at' 0x0200 [0xF2, 0x07] with dt := 0x3C } (okAt 0x0202 [(0x2, 0x3C)]) = true := by decide

/-- T-K18. -/
theorem test_ld_dt_vx : gives (regs (at' 0x0200 [0xF2, 0x15]) [(0x2, 0x3C)]) (fun t => okAt 0x0202 [] t && t.dt == 0x3C && t.st == 0x00) = true := by decide

/-- T-K20: TONE goes to 1. -/
theorem test_ld_st_vx : gives (regs (at' 0x0200 [0xF0, 0x18]) [(0x0, 0x02)]) (fun t => okAt 0x0202 [] t && t.st == 0x02 && t.tone && t.dt == 0x00) = true := by decide

/-! Fetch, the other operations, placing a word. -/

/-- T-F3: nothing but the record changes. -/
theorem test_fetch_unknown : gives { regs (at' 0x0300 [0x81, 0x28]) [(0x0, 0x11)] with i := 0x222, dt := 0x05 } (fun t =>
    faulted .unknownInstruction 0x8128 0x0300 0x0000 t && t.vx 0x0 == 0x11 && t.i == 0x222 && t.dt == 0x05) = true := by decide

/-- T-F5. -/
theorem test_fetch_odd : gives (at' 0x0201 [0x60, 0x2A]) (okAt 0x0203 [(0x0, 0x2A)]) = true := by decide

/-- T-F6. -/
theorem test_fetch_last : gives (at' 0x0FFE [0x6A, 0x55]) (okAt 0x1000 [(0xA, 0x55)]) = true := by decide

/-- T-F7. -/
theorem test_fetch_half_outside : gives (at' 0x0FFF []) (faulted .addressOutOfRange 0x0000 0x0FFF 0x1000) = true := by decide

/-- T-C14. -/
theorem test_fetch_outside : gives (at' 0x10FE []) (faulted .addressOutOfRange 0x0000 0x10FE 0x10FE) = true := by decide

/-- T-F1. -/
theorem test_reset_then_step : gives { State.reset with schedule := [.step quiet] } (faulted .unknownInstruction 0x0000 0x0200 0x0000) = true := by decide

/-- T-K23: floor at 0 and TONE. -/
theorem test_tick : gives { State.reset with dt := 0x02, st := 0x00, schedule := [.tick] } (fun t =>
    t.dt == 0x01 && t.st == 0x00 && t.report == .tick && !t.tone) = true := by decide

/-- R275. -/
theorem test_load : gives { State.reset with pc := 0x0ABC, schedule := [.load [0x60, 0x05]] } (fun t =>
    t.pc == 0x0200 && [0x1FF, 0x200, 0x201, 0x202].map t.mem.read == [0x00, 0x60, 0x05, 0x00] && t.report == .load true) = true := by decide

/-- The host's placing: the next step runs that word first, after reset. -/
theorem test_place_word : gives { State.reset.withFetchWord 16 0x6105 with schedule := [.step quiet] } (okAt 0x0202 [(0x1, 0x05)]) = true := by decide

/-- R242. -/
theorem test_cause_codes : ([Cause.none, .unknownInstruction, .stackOverflow, .stackUnderflow, .addressOutOfRange].map Cause.code == [0, 1, 2, 3, 4]) = true := by decide

/-! Witnesses: for each statement with hypotheses, values that meet them, clause by clause. -/

/-- A halted core, as T-C10 leaves it. -/
def haltedState : State := { State.reset with haltRec := ⟨true, .stackOverflow, 0x2300, 0x0400, 0x0000⟩, pc := 0x0400, sp := 16 }

/-- The core with SP at `sp`. -/
def atSp (sp : Fin 17) : State := { State.reset with sp := sp }

/-- The core with I at `i`. -/
def atI (i : Addr) : State := { State.reset with i := i }

/-- The core with the host requesting `op`. -/
def asked (op : HostOp) : State := { State.reset with schedule := [op] }

theorem witness_encodeOfDecode : decodeWord 0x8126 = .ok (.shr 0x1 0x2) := by decide

theorem witness_unknownWords : wordLegal 0x0000 = false ∧ CanFetch State.reset ∧
    wordLegal State.reset.fetchWord = false := ⟨by decide, ⟨rfl, by decide⟩, by decide⟩

theorem witness_opcodeRow : decodeWord 0xF265 = .ok (.ldVxMem 0x2) ∧
    decodeWord 0xF266 = .error (.unknownInstruction 0xF266) := by decide

/-- At the last address a fetch may start from, 0x0FFE. -/
theorem witness_stepRuns :
    let s := at' 0x0FFE [0x6A, 0x55]
    s.haltRec.halt = false ∧ s.pc.toNat ≤ 0x0FFE ∧
      decodeBytes [s.mem.read s.pc.toNat, s.mem.read (s.pc.toNat + 1)] = .ok (.ldKk 0xA 0x55, []) ∧
      s.schedule = .step quiet :: [] ∧ { s with schedule := [] }.schedule = [] := by decide

/-- Both cases of the address: 0x0FFF and above. -/
theorem witness_fetchPastMemory :
    let s := at' 0x0FFF []
    s.haltRec.halt = false ∧ s.pc.toNat > 0x0FFE ∧ s.pc.toNat = 0x0FFF ∧ (at' 0x1000 []).pc.toNat > 0x0FFE ∧
      (at' 0x1000 []).pc.toNat ≠ 0x0FFF := by decide

theorem witness_halted : haltedState.haltRec.halt = true ∧
    { haltedState with schedule := [.tick] }.schedule = .tick :: [] ∧
    { haltedState with schedule := [.snapshot] }.schedule = .snapshot :: [] ∧
    { haltedState with schedule := [.load [0x12]] }.schedule = .load [0x12] :: [] ∧ [0x12].length ≤ 3584 ∧
    { haltedState with schedule := [.reset] }.schedule = .reset :: [] := by decide

/-- A STEP of a running core that ends halted, in FETCH and in EXECUTE. -/
theorem witness_faults : State.reset.haltRec.halt = false ∧
    (∃ t, stepOp (at' 0x0FFF []) = .next t ∧ t.haltRec.halt = true) ∧
    (∃ t, stepOp State.reset = .next t ∧ t.haltRec.halt = true) := ⟨rfl, ⟨_, rfl, rfl⟩, ⟨_, rfl, rfl⟩⟩

/-- Each cause EXECUTE can raise, each at the first value that raises it. -/
theorem witness_faultCauses :
    (∃ t, exec (.call 0x300) (atSp 16) = .next t ∧ t.haltRec.halt = true) ∧
    (∃ t, exec .ret (atSp 0) = .next t ∧ t.haltRec.halt = true) ∧
    (∃ t, exec (.drw 0x0 0x0 0x2) (atI 0xFFF) = .next t ∧ t.haltRec.halt = true) ∧
    (∃ t, exec (.ldBVx 0x0) (atI 0xFFE) = .next t ∧ t.haltRec.halt = true) ∧
    (∃ t, exec (.ldMemVx 0x1) (atI 0xFFF) = .next t ∧ t.haltRec.halt = true) ∧
    (∃ t, exec (.ldVxMem 0xF) (atI 0xFF1) = .next t ∧ t.haltRec.halt = true) :=
  ⟨⟨_, rfl, rfl⟩, ⟨_, rfl, rfl⟩, ⟨_, rfl, rfl⟩, ⟨_, rfl, rfl⟩, ⟨_, rfl, rfl⟩, ⟨_, rfl, rfl⟩⟩

/-- The reset state meets the invariant's fields, and so does a state with a program, a filled stack and a halted core. -/
theorem reset_inv : State.reset.Inv := ⟨rfl, by decide, by decide, fun _ => rfl, fun h => absurd h (by decide)⟩

theorem witness_stepKeepsInv : State.reset.Inv ∧ (∃ t, step (asked (.load [0x12, 0x00])) = .next t) ∧
    (asked (.load [0x12, 0x00])).Inv ∧ haltedState.Inv :=
  ⟨reset_inv, ⟨_, rfl⟩, State.inv_congr reset_inv rfl rfl rfl rfl,
    ⟨rfl, by decide, by decide, fun h => absurd h (by decide), fun _ => by decide⟩⟩

theorem witness_reset : (asked .reset).schedule = .reset :: [] := rfl

/-- An instruction that is neither of the two named. -/
theorem witness_stack : Instr.cls ≠ .ret ∧ ∀ nnn, Instr.cls ≠ .call nnn := ⟨by decide, nofun⟩

theorem witness_framebuffer : Instr.ret ≠ .cls ∧ (∀ x y n, Instr.ret ≠ .drw x y n) ∧
    (∃ t, exec (.drw 0x0 0x0 0x5) State.reset = .next t ∧ t.report = .step .ok false) ∧
    (∃ t, step (asked .tick) = .next t) ∧ (∃ t, step (asked .snapshot) = .next t) ∧
    (∃ t, step (asked (.load [])) = .next t) ∧ (∃ t, step (asked .reset) = .next t) :=
  ⟨by decide, nofun, ⟨_, rfl, rfl⟩, ⟨_, rfl⟩, ⟨_, rfl⟩, ⟨_, rfl⟩, ⟨_, rfl⟩⟩

theorem witness_memoryWritten : (∀ x, Instr.cls ≠ .ldBVx x) ∧ (∀ x, Instr.cls ≠ .ldMemVx x) ∧
    (∃ t, exec .cls State.reset = .next t) ∧ (∃ t, step (asked .tick) = .next t) ∧
    (∃ t, step (asked .snapshot) = .next t) :=
  ⟨nofun, nofun, ⟨_, rfl⟩, ⟨_, rfl⟩, ⟨_, rfl⟩⟩

theorem witness_timers : (∀ x, Instr.cls ≠ .ldVxDt x) ∧ (∀ x, Instr.cls ≠ .ldDtVx x) ∧ (∀ x, Instr.cls ≠ .ldStVx x) ∧
    (asked .tick).schedule = .tick :: [] :=
  ⟨nofun, nofun, nofun, rfl⟩

/-- I changes by each of its three instructions. -/
theorem witness_index :
    (∃ t, exec (.ldI 0x300) State.reset = .next t ∧ t.i ≠ State.reset.i) ∧
    (∃ t, exec (.addIVx 0x2) (regs State.reset [(0x2, 0x04)]) = .next t ∧ t.i ≠ State.reset.i) ∧
    (∃ t, exec (.ldFVx 0x3) (regs State.reset [(0x3, 0x0A)]) = .next t ∧ t.i ≠ State.reset.i) :=
  ⟨⟨_, rfl, by decide⟩, ⟨_, rfl, by decide⟩, ⟨_, rfl, by decide⟩⟩

/-- VF changes as a flag, as a destination, from the timer, a key, and memory. -/
theorem witness_flag :
    (∃ t, exec (.addVy 0x0 0x0) (regs State.reset [(0x0, 0x80)]) = .next t ∧ t.vx vf ≠ State.reset.vx vf) ∧
    (∃ t, exec (.ldKk vf 0x07) State.reset = .next t ∧ t.vx vf ≠ State.reset.vx vf) ∧
    (∃ t, exec (.orVy vf 0x0) (regs State.reset [(0x0, 0x80)]) = .next t ∧ t.vx vf ≠ State.reset.vx vf) ∧
    (∃ t, exec (.ldVxDt vf) { State.reset with dt := 0x09 } = .next t ∧ t.vx vf ≠ State.reset.vx vf) ∧
    (∃ t, exec (.ldVxK vf) (State.reset.sample ⟨0, some 0x9, 0⟩) = .next t ∧ t.vx vf ≠ State.reset.vx vf) ∧
    (∃ t, exec (.ldVxMem vf) State.reset = .next t ∧ t.vx vf ≠ State.reset.vx vf) :=
  ⟨⟨_, rfl, by decide⟩, ⟨_, rfl, by decide⟩, ⟨_, rfl, by decide⟩, ⟨_, rfl, by decide⟩, ⟨_, rfl, by decide⟩,
    ⟨_, rfl, by decide⟩⟩

theorem witness_inputs : (∀ x, Instr.cls ≠ .skp x) ∧ (∀ x, Instr.cls ≠ .sknp x) ∧ (∀ x, Instr.cls ≠ .ldVxK x) ∧
    (∀ x kk, Instr.cls ≠ .rnd x kk) :=
  ⟨nofun, nofun, nofun, nofun⟩

/-- The empty stack, one entry, a full stack. -/
theorem witness_ret : (atSp 0).sp.val = 0 ∧ (atSp 1).sp.val = (0 : Fin 16).val + 1 ∧
    (atSp 16).sp.val = (15 : Fin 16).val + 1 ∧ (atSp 16).Inv :=
  ⟨rfl, rfl, rfl, State.inv_congr reset_inv rfl rfl rfl rfl⟩

/-- The full stack, the empty one, one place left; and a slot that is not the top one. -/
theorem witness_call : (atSp 16).sp.val = 16 ∧ (atSp 0).sp.val = (0 : Fin 16).val ∧ (atSp 15).sp.val = (15 : Fin 16).val ∧
    (0 : Fin 16) ≠ 15 := by decide

theorem witness_compareSkips : (0x1 : Nibble) ≠ 0x0 := by decide

theorem witness_retAfterCall : (atSp 15).sp.val < 16 ∧
    (∃ t, exec (.call 0x300) (atSp 15) = .next t ∧ t.sp = t.sp ∧ t.stack = t.stack) := ⟨by decide, ⟨_, rfl, rfl, rfl⟩⟩

/-- A destination that is not VF, for the results of the flag-writing instructions, the same-register forms and DRW. -/
theorem witness_notVf : (0x0 : Nibble) ≠ vf ∧ (0xE : Nibble) ≠ vf := by decide

/-- The set bits of 0x05 are a subset of those of 0x0F. -/
theorem witness_random : ∀ k, k < 8 → (0x05 : Byte).getLsbD k = true → (0x0F : Byte).getLsbD k = true := by decide

/-- LD B at the last address that fits and the first that does not. -/
theorem witness_bcd : (atI 0xFFD).i.toNat + 2 ≤ 0xFFF ∧ (atI 0xFFE).i.toNat + 2 > 0xFFF := by decide

/-- The block transfers at the last address that fits and the first that does not, for the longest and shortest block. -/
theorem witness_blocks : (atI 0xFF0).i.toNat + (0xF : Nibble).toNat ≤ 0xFFF ∧
    (atI 0xFF1).i.toNat + (0xF : Nibble).toNat > 0xFFF ∧ (atI 0xFFF).i.toNat + (0x0 : Nibble).toNat ≤ 0xFFF ∧
    (atI 0xFFF).i.toNat + (0x1 : Nibble).toNat > 0xFFF := by decide

/-- A register above the last one loaded. -/
theorem witness_blockLoadRest : (0x3 : Nibble).toNat > (0x2 : Nibble).toNat := by decide

theorem witness_blockUndo : (atI 0xFF0).i.toNat + (0xF : Nibble).toNat ≤ 0xFFF ∧
    ∃ t, exec (.ldMemVx 0xF) (atI 0xFF0) = .next t ∧ { State.reset with mem := t.mem, i := 0xFF0 }.mem = t.mem ∧
      { State.reset with mem := t.mem, i := 0xFF0 }.i = (atI 0xFF0).i := ⟨by decide, ⟨_, rfl, rfl, rfl⟩⟩

theorem witness_fetchSeesStore :
    let s := regs (atI 0xFFE) [(0x0, 0x60), (0x1, 0x05)]
    s.haltRec.halt = false ∧ (0x1 : Nibble).toNat ≥ 1 ∧ s.i.toNat + (0x1 : Nibble).toNat ≤ 0xFFF ∧
      (∃ t, exec (.ldMemVx 0x1) s = .next t) ∧ decodeWord (wordOfBytes (s.vx 0x0) (s.vx 0x1)) = .ok (.ldKk 0x0 0x05) :=
  ⟨rfl, by decide, by decide, ⟨_, rfl⟩, by decide⟩

/-- Height 0 anywhere, the tallest sprite that fits, the first that does not. -/
theorem witness_draw : (0x0 : Nibble).toNat = 0 ∧ (atI 0xFF1).i.toNat + ((0xF : Nibble).toNat - 1) ≤ 0xFFF ∧
    (0xF : Nibble).toNat ≥ 1 ∧ (atI 0xFF2).i.toNat + ((0xF : Nibble).toNat - 1) > 0xFFF := by decide

theorem witness_doubleDraw : (0x0 : Nibble) ≠ vf ∧ (0x1 : Nibble) ≠ vf ∧
    ((0x0 : Nibble).toNat = 0 ∨ (atI 0xFFF).i.toNat + ((0x0 : Nibble).toNat - 1) ≤ 0xFFF) ∧
    ((0x5 : Nibble).toNat = 0 ∨ State.reset.i.toNat + ((0x5 : Nibble).toNat - 1) ≤ 0xFFF) := by decide

theorem witness_waitForKey : (State.reset.sample ⟨0, none, 0⟩).inp.keyPending = none ∧
    (State.reset.sample ⟨0, some 0x7, 0⟩).inp.keyPending = some 0x7 := by decide

/-- A STEP that changes each timer. -/
theorem witness_tick : (asked .tick).schedule = .tick :: [] ∧
    (∃ t, stepOp (regs (at' 0x0200 [0xF2, 0x15]) [(0x2, 0x3C)]) = .next t ∧ t.dt ≠ State.reset.dt) ∧
    (∃ t, stepOp (regs (at' 0x0200 [0xF2, 0x18]) [(0x2, 0x3C)]) = .next t ∧ t.st ≠ State.reset.st) :=
  ⟨rfl, ⟨_, rfl, by decide⟩, ⟨_, rfl, by decide⟩⟩

/-- The empty program, the longest that fits, the shortest that does not. -/
theorem witness_load : (asked (.load [])).schedule = .load [] :: [] ∧ ([] : List Byte).length ≤ 3584 ∧
    (List.replicate 3584 (0x12 : Byte)).length ≤ 3584 ∧ (List.replicate 3585 (0x12 : Byte)).length > 3584 := by
  refine ⟨rfl, Nat.zero_le _, ?_, ?_⟩ <;> simp only [List.length_replicate] <;> decide

theorem witness_snapshot : (asked .snapshot).schedule = .snapshot :: [] := rfl

end Sys2Proof.Tests
end

section
/-! SUPPORT. The framebuffer as a whole: the snapshot's order of the cells (10_state.md R32, R46), and a sprite drawn is
an exclusive or with the grid (43_display.md R192, R193). -/
namespace Sys2Proof.Machine

/-! The snapshot's order. -/

theorem Framebuffer.cells_eq_flatten (fb : Framebuffer) : fb.cells = (Vector.flatten fb).toList := by
  have htoList : (Vector.toList : Vector Bool 64 → List Bool) = Array.toList ∘ Vector.toArray := rfl
  simp [Framebuffer.cells, Vector.flatten, htoList, Vector.toList]

@[simp] theorem Framebuffer.length_cells (fb : Framebuffer) : fb.cells.length = 2048 := by
  rw [Framebuffer.cells_eq_flatten, Vector.length_toList]

/-- Cell (r, c) stands at index `64 r + c` of the snapshot. -/
theorem Framebuffer.getElem?_cells (fb : Framebuffer) (r : Fin 32) (c : Fin 64) :
    fb.cells[64 * r.val + c.val]? = some (fb.cell r c) := by
  have hlt : 64 * r.val + c.val < 32 * 64 := by omega
  have hrow : (64 * r.val + c.val) / 64 = r.val := by omega
  have hcol : (64 * r.val + c.val) % 64 = c.val := by omega
  rw [Framebuffer.cells_eq_flatten, Vector.getElem?_toList, Vector.getElem?_eq_getElem hlt, Vector.getElem_flatten]
  simp only [hrow, hcol, Framebuffer.cell, Fin.getElem_fin]

/-! Drawing. -/

/-- Toggling for two reasons that exclude each other is toggling when one of them holds. -/
theorem xor_xor_of_not_and {p a b : Prop} (h : ¬ (a ∧ b)) : Xor (Xor p a) b ↔ Xor p (a ∨ b) := by
  unfold Xor; tauto

/-- Everything a cell toggle does: `FB[r][c] <- FB[r][c] XOR bit`. -/
theorem Framebuffer.cell_toggle (fb : Framebuffer) (r r' : Fin 32) (c c' : Fin 64) (bit : Bool) :
    (fb.setCell r c (fb.cell r c ^^ bit)).cell r' c' = true ↔
      Xor (fb.cell r' c' = true) (r' = r ∧ c' = c ∧ bit = true) := by
  rw [Framebuffer.cell_setCell]
  by_cases h : r' = r ∧ c' = c
  · obtain ⟨rfl, rfl⟩ := h
    cases bit <;> simp [Xor]
  · rw [if_neg h, ← and_assoc]
    simp [h, Xor]

/-- One of the first `k` bits of `b`, drawn at (`x`, `y`), is a 1 on cell (`r`, `c`) (R192). -/
def RowOn (b : Byte) (x y k : Nat) (r : Fin 32) (c : Fin 64) : Prop :=
  ∃ j, j < k ∧ r.val = y % 32 ∧ c.val = (x + j) % 64 ∧ b.getLsbD (7 - j) = true

theorem rowOn_zero (b : Byte) (x y : Nat) (r : Fin 32) (c : Fin 64) : ¬ RowOn b x y 0 r c := by
  simp [RowOn]

theorem rowOn_succ (b : Byte) (x y k : Nat) (r : Fin 32) (c : Fin 64) :
    RowOn b x y (k + 1) r c ↔
      RowOn b x y k r c ∨ (r = wrapRow y ∧ c = wrapCol x k ∧ b.getLsbD (7 - k) = true) := by
  simp only [RowOn, Nat.exists_lt_succ_right, Fin.ext_iff, wrapRow, wrapCol]

/-- The columns of different bits differ, so no toggle of drawByte undoes an earlier one. -/
theorem not_rowOn_of_nextCol {b : Byte} {x y k : Nat} (hk : k < 8) {r : Fin 32} {c : Fin 64} (hc : c = wrapCol x k) :
    ¬ RowOn b x y k r c := by
  rintro ⟨j, hj, -, hcj, -⟩
  have := wrapCol_inj (by omega) hk ((Fin.ext hcj).symm.trans hc)
  omega

/-- The first `k` bit operations of drawByte toggle the cells under the 1 bits among them (R192). -/
theorem cell_drawBits (fb : Framebuffer) (x y : Nat) (b : Byte) (r : Fin 32) (c : Fin 64) {k : Nat} (hk : k ≤ 8) :
    (drawBits fb (wrapRow y) x b k).1.cell r c = true ↔ Xor (fb.cell r c = true) (RowOn b x y k r c) := by
  induction k with
  | zero => simp [drawBits, rowOn_zero, Xor]
  | succ k ih =>
    rw [drawBits_succ, Framebuffer.cell_toggle, ih (by omega), rowOn_succ]
    exact xor_xor_of_not_and fun ⟨hrow, _, hc, _⟩ => not_rowOn_of_nextCol hk hc hrow

/-- drawByte toggles the cells of its row under its 1 bits (R192). -/
theorem cell_drawByte (fb : Framebuffer) (x y : Nat) (b : Byte) (r : Fin 32) (c : Fin 64) :
    (drawByte fb x y b).1.cell r c = true ↔ Xor (fb.cell r c = true) (RowOn b x y 8 r c) :=
  cell_drawBits fb x y b r c le_rfl

/-- The cells of a sprite are those of its first row and those of the rest, one row lower. -/
theorem spriteOn_cons (b : Byte) (rest : List Byte) (x y : Nat) (r : Fin 32) (c : Fin 64) :
    SpriteOn (b :: rest) x y r c ↔ RowOn b x y 8 r c ∨ SpriteOn rest x (y + 1) r c := by
  constructor
  · rintro ⟨j, k, hj, hk, hr, hc, hbit⟩
    cases j with
    | zero => exact .inl ⟨k, hk, hr, hc, hbit⟩
    | succ j => exact .inr ⟨j, k, Nat.lt_of_succ_lt_succ hj, hk, by omega, hc, hbit⟩
  · rintro (⟨k, hk, hr, hc, hbit⟩ | ⟨j, k, hj, hk, hr, hc, hbit⟩)
    · exact ⟨0, k, Nat.succ_pos _, hk, hr, hc, hbit⟩
    · exact ⟨j + 1, k, Nat.succ_lt_succ hj, hk, by omega, hc, hbit⟩

/-- The rows of a sprite fall on different rows of the grid while there are at most 32 of them. -/
theorem not_spriteOn_of_rowOn {b : Byte} {rest : List Byte} (hlen : rest.length < 32) {x y : Nat} {r : Fin 32}
    {c : Fin 64} (hrow : RowOn b x y 8 r c) : ¬ SpriteOn rest x (y + 1) r c := by
  obtain ⟨-, -, hr, -⟩ := hrow
  rintro ⟨j, -, hj, -, hr', -⟩
  omega

/-- A sprite of at most 32 rows toggles exactly its cells (R193). -/
theorem cell_drawSprite (fb : Framebuffer) (x y : Nat) {sprite : List Byte} (hlen : sprite.length ≤ 32) (r : Fin 32)
    (c : Fin 64) :
    (drawSprite fb x y sprite).1.cell r c = true ↔ Xor (fb.cell r c = true) (SpriteOn sprite x y r c) := by
  induction sprite generalizing fb y with
  | nil => simp [drawSprite, SpriteOn, Xor]
  | cons b rest ih =>
    rw [List.length_cons] at hlen
    rw [drawSprite_cons, ih _ _ (by omega), cell_drawByte, spriteOn_cons]
    exact xor_xor_of_not_and fun ⟨hrow, hrest⟩ => not_spriteOn_of_rowOn (by omega) hrow hrest

@[simp] theorem State.length_readBlock (s : State) (n : Nat) : (s.readBlock n).length = n := by
  simp [State.readBlock]

/-- The drawing part of DRW touches no register but VF. -/
theorem State.vx_draw_other (s : State) (px py : Byte) (n : Nat) {r : Nibble} (h : r ≠ vf) :
    (s.draw px py n).vx r = s.vx r :=
  State.vx_setVx_other _ _ h

end Sys2Proof.Machine
end

section
/-! SUPPORT. EXECUTE of the instructions that can end in more than one way, one equation per way: a fault or not, and the
wait for a key. -/
namespace Sys2Proof.Machine

/-- LD Vx,K with no key pending (44_keys_timers.md R213). -/
theorem exec_ldVxK_none {x : Nibble} {s : State} (h : s.inp.keyPending = none) :
    exec (.ldVxK x) s = .next s.block := by
  simp only [exec, execLdVxK, h]

/-- LD Vx,K with key `k` pending (R213). -/
theorem exec_ldVxK_some {x k : Nibble} {s : State} (h : s.inp.keyPending = some k) :
    exec (.ldVxK x) s = .next ((s.setVx x (k.setWidth 8)).retireNext).ackKey := by
  simp only [exec, execLdVxK, h]

/-- The range check of DRW passes or fails (R193); with no row there is nothing to check. -/
theorem drw_outside_or_inside (n : Nibble) (s : State) :
    (n.toNat ≥ 1 ∧ s.i.toNat + (n.toNat - 1) > 0xFFF) ∨ (n.toNat = 0 ∨ s.i.toNat + (n.toNat - 1) ≤ 0xFFF) := by
  omega

/-- DRW past the end of memory (43_display.md R193). -/
theorem exec_drw_of_outside {x y n : Nibble} {s : State} (h : n.toNat ≥ 1 ∧ s.i.toNat + (n.toNat - 1) > 0xFFF) :
    exec (.drw x y n) s = .next (s.raiseIn (.drw x y n) .addressOutOfRange firstOutside) := by
  simp only [exec, execDrw]
  rw [if_pos (by simpa only [Bool.and_eq_true, decide_eq_true_eq, rangeFaults_iff] using h)]

/-- DRW inside memory (R193). -/
theorem exec_drw_of_inside {x y n : Nibble} {s : State} (h : n.toNat = 0 ∨ s.i.toNat + (n.toNat - 1) ≤ 0xFFF) :
    exec (.drw x y n) s = .next (s.draw (s.vx x) (s.vx y) n.toNat).retireNext := by
  simp only [exec, execDrw]
  rw [if_neg (by simp only [Bool.and_eq_true, decide_eq_true_eq, rangeFaults_iff]; omega)]

/-- LD B past the end of memory (42_index_memory.md R174). -/
theorem exec_ldBVx_of_outside {x : Nibble} {s : State} (h : s.i.toNat + 2 > 0xFFF) :
    exec (.ldBVx x) s = .next (s.raiseIn (.ldBVx x) .addressOutOfRange firstOutside) := by
  simp only [exec, execLdBVx, rangeFaults_iff, h, if_true]

/-- LD B inside memory (R174). -/
theorem exec_ldBVx_of_inside {x : Nibble} {s : State} (h : s.i.toNat + 2 ≤ 0xFFF) :
    exec (.ldBVx x) s = .next (s.storeBcd (s.vx x)).retireNext := by
  simp only [exec, execLdBVx, (rangeFaults_eq_false_iff _ _).mpr h, Bool.false_eq_true, if_false]

/-- LD [I] past the end of memory (R175). -/
theorem exec_ldMemVx_of_outside {x : Nibble} {s : State} (h : s.i.toNat + x.toNat > 0xFFF) :
    exec (.ldMemVx x) s = .next (s.raiseIn (.ldMemVx x) .addressOutOfRange firstOutside) := by
  simp only [exec, execLdMemVx, rangeFaults_iff, h, if_true]

/-- LD [I] inside memory (R175). -/
theorem exec_ldMemVx_of_inside {x : Nibble} {s : State} (h : s.i.toNat + x.toNat ≤ 0xFFF) :
    exec (.ldMemVx x) s = .next (s.storeRegs (x.toNat + 1)).retireNext := by
  simp only [exec, execLdMemVx, (rangeFaults_eq_false_iff _ _).mpr h, Bool.false_eq_true, if_false]

/-- LD Vx,[I] past the end of memory (R176). -/
theorem exec_ldVxMem_of_outside {x : Nibble} {s : State} (h : s.i.toNat + x.toNat > 0xFFF) :
    exec (.ldVxMem x) s = .next (s.raiseIn (.ldVxMem x) .addressOutOfRange firstOutside) := by
  simp only [exec, execLdVxMem, rangeFaults_iff, h, if_true]

/-- LD Vx,[I] inside memory (R176). -/
theorem exec_ldVxMem_of_inside {x : Nibble} {s : State} (h : s.i.toNat + x.toNat ≤ 0xFFF) :
    exec (.ldVxMem x) s = .next (s.loadRegs (x.toNat + 1)).retireNext := by
  simp only [exec, execLdVxMem, (rangeFaults_eq_false_iff _ _).mpr h, Bool.false_eq_true, if_false]

/-- RET on an empty stack (40_control_flow.md R121). -/
theorem exec_ret_of_empty {s : State} (h : s.sp.val = 0) :
    exec .ret s = .next (s.raiseIn .ret .stackUnderflow 0x0000) := by
  simp only [exec, execRet, h, if_true]

/-- RET with a return address on the stack (R121). -/
theorem exec_ret_of_nonempty {s : State} (h : s.sp.val ≠ 0) : exec .ret s = .next (s.pop.retire s.stackTop) := by
  simp only [exec, execRet, h, if_false]

/-- CALL on a full stack (R123). -/
theorem exec_call_of_full {nnn : Addr} {s : State} (h : s.sp.val = 16) :
    exec (.call nnn) s = .next (s.raiseIn (.call nnn) .stackOverflow 0x0000) := by
  simp only [exec, execCall, h, if_true]

/-- CALL with a slot free (R123): the return address in the slot above SP, and SP on it. -/
theorem exec_call_of_free {nnn : Addr} {s : State} (h : s.sp.val < 16) :
    exec (.call nnn) s =
      .next ({ s with sp := ⟨s.sp.val + 1, by omega⟩,
                      stack := s.stack.set s.sp.val (s.pc + 2) h }.retire (absTarget nnn)) := by
  simp only [exec, execCall, Nat.ne_of_lt h, if_false, State.push, h, dite_true]

end Sys2Proof.Machine
end

section
/-! SUPPORT. The parts of the state that few instructions reach: the stack, the framebuffer, the timers and the sampled
inputs (10_state.md R28, R29, R32, R43 to R45). `Part.reachedBy` lists the instructions that reach each; every other one
neither changes the part nor depends on it (`ignores_of_not_reachedBy`). -/
namespace Sys2Proof.Machine

/-- A part of the state with instructions of its own. -/
inductive Part where
  | stack       -- SP and the slots (R29)
  | screen      -- FB (R32)
  | delay       -- DT (R28)
  | sound       -- ST (R28)
  | keys        -- KEYS (R43)
  | pendingKey  -- KEY_PENDING (R44)
  | random      -- RND (R45)

/-- The state with the part `p` as `u` has it. -/
def State.putPart (s : State) (p : Part) (u : State) : State :=
  match p with
  | .stack => { s with sp := u.sp, stack := u.stack }
  | .screen => { s with fb := u.fb }
  | .delay => { s with dt := u.dt }
  | .sound => { s with st := u.st }
  | .keys => { s with inp := { s.inp with keys := u.inp.keys } }
  | .pendingKey => { s with inp := { s.inp with keyPending := u.inp.keyPending } }
  | .random => { s with inp := { s.inp with rnd := u.inp.rnd } }

/-- The instructions that reach a part, by the same rules. -/
def Part.reachedBy : Part → Instr → Bool
  | .stack, .ret | .stack, .call _ => true
  | .screen, .cls | .screen, .drw _ _ _ => true
  | .delay, .ldVxDt _ | .delay, .ldDtVx _ => true
  | .sound, .ldStVx _ => true
  | .keys, .skp _ | .keys, .sknp _ => true
  | .pendingKey, .ldVxK _ => true
  | .random, .rnd _ _ => true
  | _, _ => false

theorem Part.reachedBy_stack {i : Instr} (hret : i ≠ .ret) (hcall : ∀ nnn, i ≠ .call nnn) :
    Part.stack.reachedBy i = false := by
  cases i with
  | ret => exact absurd rfl hret
  | call nnn => exact absurd rfl (hcall nnn)
  | _ => rfl

theorem Part.reachedBy_screen {i : Instr} (hcls : i ≠ .cls) (hdrw : ∀ x y n, i ≠ .drw x y n) :
    Part.screen.reachedBy i = false := by
  cases i with
  | cls => exact absurd rfl hcls
  | drw x y n => exact absurd rfl (hdrw x y n)
  | _ => rfl

theorem Part.reachedBy_delay {i : Instr} (hread : ∀ x, i ≠ .ldVxDt x) (hwrite : ∀ x, i ≠ .ldDtVx x) :
    Part.delay.reachedBy i = false := by
  cases i with
  | ldVxDt x => exact absurd rfl (hread x)
  | ldDtVx x => exact absurd rfl (hwrite x)
  | _ => rfl

theorem Part.reachedBy_sound {i : Instr} (hwrite : ∀ x, i ≠ .ldStVx x) : Part.sound.reachedBy i = false := by
  cases i with
  | ldStVx x => exact absurd rfl (hwrite x)
  | _ => rfl

/-! The block transfers move registers and memory only, beside every part. -/

theorem State.storeRegs_putPart (s : State) (p : Part) (u : State) (n : Nat) :
    (s.putPart p u).storeRegs n = (s.storeRegs n).putPart p u := by
  induction n with
  | zero => rfl
  | succ k ih => rw [State.storeRegs, ih]; cases p <;> rfl

theorem State.loadRegs_putPart (s : State) (p : Part) (u : State) (n : Nat) :
    (s.putPart p u).loadRegs n = (s.loadRegs n).putPart p u := by
  induction n with
  | zero => rfl
  | succ k ih => rw [State.loadRegs, ih]; cases p <;> rfl

theorem State.retireNext_putPart (s : State) (p : Part) (u : State) :
    (s.putPart p u).retireNext = s.retireNext.putPart p u := by cases p <;> rfl

@[simp] theorem State.putPart_i (s : State) (p : Part) (u : State) : (s.putPart p u).i = s.i := by cases p <;> rfl

/-- An instruction that does not reach a part leaves it as it is, and from a state with any other content of it answers
the same state but for that content. -/
def Ignores (i : Instr) (p : Part) : Prop :=
  ∀ s u : State, ∃ t, exec i s = .next t ∧ t.putPart p s = t ∧ exec i (s.putPart p u) = .next (t.putPart p u)

/-- Noninterference over all instructions and parts. Most instructions run the same operations whatever the part holds;
where an instruction has more than one way to end, the part has no say in which it takes. -/
theorem ignores_of_not_reachedBy {i : Instr} {p : Part} (h : p.reachedBy i = false) : Ignores i p := by
  intro s u
  cases i with
  | ret =>
    by_cases hsp : s.sp.val = 0
    · cases p <;> cases h <;> exact ⟨_, exec_ret_of_empty hsp, rfl, exec_ret_of_empty hsp⟩
    · cases p <;> cases h <;> exact ⟨_, exec_ret_of_nonempty hsp, rfl, exec_ret_of_nonempty hsp⟩
  | call nnn =>
    by_cases hsp : s.sp.val < 16
    · cases p <;> cases h <;> exact ⟨_, exec_call_of_free hsp, rfl, exec_call_of_free (by exact hsp)⟩
    · have hfull : s.sp.val = 16 := by omega
      cases p <;> cases h <;> exact ⟨_, exec_call_of_full hfull, rfl, exec_call_of_full hfull⟩
  | drw x y n =>
    rcases drw_outside_or_inside n s with hr | hr
    · cases p <;> cases h <;> exact ⟨_, exec_drw_of_outside hr, rfl, exec_drw_of_outside hr⟩
    · cases p <;> cases h <;> exact ⟨_, exec_drw_of_inside hr, rfl, exec_drw_of_inside hr⟩
  | ldBVx x =>
    rcases Nat.lt_or_ge 0xFFF (s.i.toNat + 2) with hr | hr
    · cases p <;> exact ⟨_, exec_ldBVx_of_outside hr, rfl, exec_ldBVx_of_outside hr⟩
    · cases p <;> exact ⟨_, exec_ldBVx_of_inside hr, rfl, exec_ldBVx_of_inside hr⟩
  | ldMemVx x =>
    rcases Nat.lt_or_ge 0xFFF (s.i.toNat + x.toNat) with hr | hr
    · cases p <;> exact ⟨_, exec_ldMemVx_of_outside hr, rfl, exec_ldMemVx_of_outside hr⟩
    · refine ⟨_, exec_ldMemVx_of_inside hr, ?_, ?_⟩
      · rw [State.storeRegs_frame]; cases p <;> rfl
      · rw [exec_ldMemVx_of_inside (by rwa [State.putPart_i]), State.storeRegs_putPart, State.retireNext_putPart]
  | ldVxMem x =>
    rcases Nat.lt_or_ge 0xFFF (s.i.toNat + x.toNat) with hr | hr
    · cases p <;> exact ⟨_, exec_ldVxMem_of_outside hr, rfl, exec_ldVxMem_of_outside hr⟩
    · refine ⟨_, exec_ldVxMem_of_inside hr, ?_, ?_⟩
      · rw [State.loadRegs_frame]; cases p <;> rfl
      · rw [exec_ldVxMem_of_inside (by rwa [State.putPart_i]), State.loadRegs_putPart, State.retireNext_putPart]
  | ldVxK x =>
    cases hk : s.inp.keyPending with
    | none => cases p <;> cases h <;> exact ⟨_, exec_ldVxK_none hk, rfl, exec_ldVxK_none hk⟩
    | some k => cases p <;> cases h <;> exact ⟨_, exec_ldVxK_some hk, rfl, exec_ldVxK_some hk⟩
  | _ => cases p <;> cases h <;> exact ⟨_, rfl, rfl, rfl⟩

end Sys2Proof.Machine
end

section
/-! The statements of 10_state.md on what reaches the stack, the framebuffer and the timers, and on the outputs. -/
namespace Sys2Proof.Machine

/-- Settles O16, by noninterference (`ignores_of_not_reachedBy`) for the stack. -/
theorem stackReachedOnlyByCallAndRet : Obligations.StackReachedOnlyByCallAndRet := by
  refine ⟨fun i s sp' stack' hret hcall => ?_, fun _ _ _ => ⟨rfl, rfl⟩, fun _ _ _ _ => rfl⟩
  obtain ⟨t, ht, hsame, hother⟩ :=
    ignores_of_not_reachedBy (Part.reachedBy_stack hret hcall) s { s with sp := sp', stack := stack' }
  exact ⟨t, ht, (congrArg State.sp hsame).symm, (congrArg State.stack hsame).symm, hother⟩

/-- DRW toggles the cells of its sprite whenever it completes (43_display.md R193). -/
theorem exec_drw_cell {x y n : Nibble} {s t : State} (ht : exec (.drw x y n) s = .next t)
    (hok : t.report = .step .ok false) (r : Fin 32) (c : Fin 64) :
    t.fb.cell r c = true ↔
      Xor (s.fb.cell r c = true) (SpriteOn (s.readBlock n.toNat) (s.vx x).toNat (s.vx y).toNat r c) := by
  rcases drw_outside_or_inside n s with hr | hr
  · rw [exec_drw_of_outside hr, Host.Outcome.next.injEq] at ht
    subst ht
    cases hok
  · rw [exec_drw_of_inside hr, Host.Outcome.next.injEq] at ht
    subst ht
    exact cell_drawSprite _ _ _ (by rw [State.length_readBlock]; omega) r c

/-- From two framebuffers DRW answers states that differ in the framebuffer and VF only (R193). -/
theorem exec_drw_screen (x y n : Nibble) (s : State) (fb' : Framebuffer) :
    ∃ t t', exec (.drw x y n) s = .next t ∧ exec (.drw x y n) { s with fb := fb' } = .next t' ∧
      { t' with fb := t.fb, v := t.v } = t ∧ RegsSameBut [vf] t t' := by
  rcases drw_outside_or_inside n s with hr | hr
  · exact ⟨_, _, exec_drw_of_outside hr, exec_drw_of_outside hr, rfl, fun _ _ => rfl⟩
  · refine ⟨_, _, exec_drw_of_inside hr, exec_drw_of_inside hr, rfl, fun r hr' => ?_⟩
    have hvf : r ≠ vf := by simpa using hr'
    exact (State.vx_draw_other _ _ _ _ hvf).trans (State.vx_draw_other s _ _ _ hvf).symm

/-- LOAD leaves the framebuffer alone, accepted or not (70_reset_and_hazards.md R275, R276). -/
@[simp] theorem State.load_fb (s : State) (rom : List Byte) : (s.load rom).fb = s.fb := by
  unfold State.load; split <;> rfl

/-- The host's operations but STEP and RESET leave the framebuffer alone (10_state.md R32). -/
theorem step_fb_of_hostOp {s t : State} {op : HostOp} {rest : List HostOp} (hs : s.schedule = op :: rest)
    (hop : op = .tick ∨ op = .snapshot ∨ ∃ rom, op = .load rom) (ht : step s = .next t) : t.fb = s.fb := by
  rcases hop with rfl | rfl | ⟨rom, rfl⟩
  · rw [step_of_tick hs] at ht; cases ht; rfl
  · rw [step_of_snapshot hs] at ht; cases ht; rfl
  · rw [step_of_load hs] at ht; cases ht; exact State.load_fb _ rom

/-- Settles O17, by noninterference for the framebuffer, and for DRW by the exclusive or with its sprite. -/
theorem framebufferReachedOnlyByClsAndDrw : Obligations.FramebufferReachedOnlyByClsAndDrw := by
  refine ⟨fun i s fb' hcls hdrw => ?_, fun s => ⟨_, rfl, Framebuffer.cell_cleared⟩,
    fun x y n s t ht hok => exec_drw_cell ht hok, exec_drw_screen, fun s t op rest => step_fb_of_hostOp,
    fun s t rest hs ht => ?_, fun _ _ _ _ => ⟨rfl, rfl⟩,
    fun fb r c => ⟨fb.length_cells, fb.getElem?_cells r c⟩⟩
  · obtain ⟨t, ht, hsame, hother⟩ :=
      ignores_of_not_reachedBy (Part.reachedBy_screen hcls hdrw) s { s with fb := fb' }
    exact ⟨t, ht, (congrArg State.fb hsame).symm, hother⟩
  · rw [step_of_reset hs] at ht; cases ht; rfl

/-- Settles O19, by noninterference for each timer. -/
theorem timersReachedOnlyByTheirInstructions : Obligations.TimersReachedOnlyByTheirInstructions := by
  refine ⟨fun i s dt' hread hwrite => ?_, fun i s st' hwrite => ?_,
    fun x s => ⟨_, rfl, State.vx_setVx_self s x s.dt, rfl⟩, fun _ _ => ⟨_, rfl, rfl⟩, fun _ _ => ⟨_, rfl, rfl⟩,
    fun s rest hs => ⟨_, step_of_tick hs, timerTick_toNat s.dt, timerTick_toNat s.st⟩,
    fun _ _ _ _ _ => ⟨rfl, rfl, rfl⟩⟩
  · obtain ⟨t, ht, hsame, hother⟩ :=
      ignores_of_not_reachedBy (Part.reachedBy_delay hread hwrite) s { s with dt := dt' }
    exact ⟨t, ht, (congrArg State.dt hsame).symm, hother⟩
  · obtain ⟨t, ht, hsame, hother⟩ :=
      ignores_of_not_reachedBy (Part.reachedBy_sound hwrite) s { s with st := st' }
    exact ⟨t, ht, (congrArg State.st hsame).symm, hother⟩

/-- Settles O52, by the snapshot's order of the cells and the frame of SNAPSHOT. -/
theorem snapshotAnswersTheCells : Obligations.SnapshotAnswersTheCells := by
  refine ⟨fun s rest hs => ?_, fun s rest hs => ⟨_, step_of_tick hs, rfl⟩, fun s => decide_eq_true_iff⟩
  have hframe : OnlyRegsChange [] s (State.snapshot { s with schedule := rest }) :=
    ⟨fun _ _ => rfl, rfl, ⟨rfl, rfl⟩, ⟨rfl, fun _ => rfl⟩, fun _ _ => rfl, fun _ => rfl⟩
  exact ⟨_, s.fb.cells, step_of_snapshot hs, rfl, s.fb.length_cells, s.fb.getElem?_cells, rfl, rfl, hframe, rfl⟩

end Sys2Proof.Machine
end

section
/-! SUPPORT. The words of 30_encoding.md R105 as the formats of R94, the fields of each format, and DECODE in the
families of 40_control_flow.md. -/
namespace Sys2Proof.Machine

/-! `match` or'ed with the fields in their places is the format with the family in front. -/

theorem wordA_eq_formatA (m : Word) (op : Nibble) (hm : m = formatA op 0x000) (nnn : Addr) :
    wordA m nnn = formatA op nnn := by
  subst hm
  apply BitVec.eq_of_getLsbD_eq
  intro k hk
  simp only [wordA, formatA, BitVec.getLsbD_or, BitVec.getLsbD_append, BitVec.getLsbD_setWidth]
  interval_cases k <;> simp

theorem wordXK_eq_formatXK (m : Word) (op : Nibble) (hm : m = formatXK op 0x0 0x00) (x : Nibble) (kk : Byte) :
    wordXK m x kk = formatXK op x kk := by
  subst hm
  apply BitVec.eq_of_getLsbD_eq
  intro k hk
  simp only [wordXK, formatXK, BitVec.getLsbD_or, BitVec.getLsbD_append, BitVec.getLsbD_shiftLeft,
    BitVec.getLsbD_setWidth]
  interval_cases k <;> simp

theorem wordXYN_eq_formatXY (m : Word) (op : Nibble) (hm : m = formatXY op 0x0 0x0 0x0) (x y n : Nibble) :
    wordXYN m x y n = formatXY op x y n := by
  subst hm
  apply BitVec.eq_of_getLsbD_eq
  intro k hk
  simp only [wordXYN, formatXY, BitVec.getLsbD_or, BitVec.getLsbD_append, BitVec.getLsbD_shiftLeft,
    BitVec.getLsbD_setWidth]
  interval_cases k <;> simp

/-! The fields of R92 read back from a format. -/

@[simp] theorem opField_formatA (op : Nibble) (nnn : Addr) : opField (formatA op nnn) = op := by
  apply BitVec.eq_of_toNat_eq; rw [opField_toNat, formatA_toNat]; omega

@[simp] theorem nnnField_formatA (op : Nibble) (nnn : Addr) : nnnField (formatA op nnn) = nnn := by
  apply BitVec.eq_of_toNat_eq; rw [nnnField_toNat, formatA_toNat]; omega

@[simp] theorem opField_formatXK (op x : Nibble) (kk : Byte) : opField (formatXK op x kk) = op := by
  apply BitVec.eq_of_toNat_eq; rw [opField_toNat, formatXK_toNat]; omega

@[simp] theorem xField_formatXK (op x : Nibble) (kk : Byte) : xField (formatXK op x kk) = x := by
  apply BitVec.eq_of_toNat_eq; rw [xField_toNat, formatXK_toNat]; omega

@[simp] theorem kkField_formatXK (op x : Nibble) (kk : Byte) : kkField (formatXK op x kk) = kk := by
  apply BitVec.eq_of_toNat_eq; rw [kkField_toNat, formatXK_toNat]; omega

@[simp] theorem opField_formatXY (op x y n : Nibble) : opField (formatXY op x y n) = op := by
  apply BitVec.eq_of_toNat_eq; rw [opField_toNat, formatXY_toNat]; omega

@[simp] theorem xField_formatXY (op x y n : Nibble) : xField (formatXY op x y n) = x := by
  apply BitVec.eq_of_toNat_eq; rw [xField_toNat, formatXY_toNat]; omega

@[simp] theorem yField_formatXY (op x y n : Nibble) : yField (formatXY op x y n) = y := by
  apply BitVec.eq_of_toNat_eq; rw [yField_toNat, formatXY_toNat]; omega

@[simp] theorem nField_formatXY (op x y n : Nibble) : nField (formatXY op x y n) = n := by
  apply BitVec.eq_of_toNat_eq; rw [nField_toNat, formatXY_toNat]; omega

/-! DECODE by family (R98, R101). -/

theorem decodeWord_of_family1 {w : Word} (hop : opField w = 0x1) : decodeWord w = .ok (.jp (nnnField w)) := by
  simp only [decodeWord, hop]; rfl

theorem decodeWord_of_family2 {w : Word} (hop : opField w = 0x2) : decodeWord w = .ok (.call (nnnField w)) := by
  simp only [decodeWord, hop]; rfl

theorem decodeWord_of_family3 {w : Word} (hop : opField w = 0x3) :
    decodeWord w = .ok (.seKk (xField w) (kkField w)) := by
  simp only [decodeWord, hop]; rfl

theorem decodeWord_of_family4 {w : Word} (hop : opField w = 0x4) :
    decodeWord w = .ok (.sneKk (xField w) (kkField w)) := by
  simp only [decodeWord, hop]; rfl

theorem decodeWord_of_family5 {w : Word} (hop : opField w = 0x5) (hn : nField w = 0x0) :
    decodeWord w = .ok (.seVy (xField w) (yField w)) := by
  simp only [decodeWord, hop, hn]; rfl

theorem decodeWord_of_family9 {w : Word} (hop : opField w = 0x9) (hn : nField w = 0x0) :
    decodeWord w = .ok (.sneVy (xField w) (yField w)) := by
  simp only [decodeWord, hop, hn]; rfl

/-- A low nibble other than 0 is no instruction in families 5 and 9 (40_control_flow.md R127, R128). -/
theorem decodeWord_of_lowNibble_ne_zero {w : Word} (hop : opField w = 0x5 ∨ opField w = 0x9) (hn : nField w ≠ 0x0) :
    decodeWord w = .error (.unknownInstruction w) := by
  rcases hop with hop | hop
  all_goals
    simp only [decodeWord, hop, BitVec.reduceToNat]
    split
    next h0 => exact absurd (BitVec.eq_of_toNat_eq h0) hn
    next => rfl

end Sys2Proof.Machine
end

section
/-! SUPPORT. How the control transfers end (40_control_flow.md): the frames of `State.retire` and `State.raiseIn`, the
target of a skip, and CALL and RET as a push and a pop. -/
namespace Sys2Proof.Machine

/-- Retiring sets PC and answers OK (00_scope.md R16). -/
theorem State.endsOk_retire (s : State) (pc' : Word) : EndsOk pc' s (s.retire pc') :=
  ⟨rfl, rfl, rfl, rfl, rfl, rfl⟩

/-- The same after a push, which the end of a STEP does not see. -/
theorem State.endsOk_push_retire (s : State) (a pc' : Word) : EndsOk pc' s ((s.push a).retire pc') :=
  ⟨rfl, s.push_haltRec a, rfl, s.push_inp a, s.push_schedule a, s.push_freeIdx a⟩

/-- Retiring changes nothing else of the core. -/
theorem State.onlyRegsChange_retire (s : State) (pc' : Word) : OnlyRegsChange [] s (s.retire pc') :=
  ⟨fun _ _ => rfl, rfl, ⟨rfl, rfl⟩, ⟨rfl, fun _ => rfl⟩, fun _ _ => rfl, fun _ => rfl⟩

/-- A fault changes the halt record alone (60_exceptions.md R241). -/
theorem State.onlyRegsChange_raiseIn (s : State) (i : Instr) (cause : Cause) (addr : Word) :
    OnlyRegsChange [] s (s.raiseIn i cause addr) :=
  ⟨fun _ _ => rfl, rfl, ⟨rfl, rfl⟩, ⟨rfl, fun _ => rfl⟩, fun _ _ => rfl, fun _ => rfl⟩

/-- A skip whose test decides `p` (R129). -/
theorem skipTarget_of_iff (fa : Word) {c : Bool} {p : Prop} [Decidable p] (h : c = true ↔ p) :
    skipTarget fa c = if p then fa + 4 else fa + 2 := by
  simp only [skipTarget, h]

/-- An instruction that only skips: its target, and its frame. -/
theorem State.retire_skip (s : State) {c : Bool} {p : Prop} [Decidable p] (h : c = true ↔ p) :
    EndsOk (if p then s.pc + 4 else s.pc + 2) s (s.retire (skipTarget s.pc c)) ∧
      OnlyRegsChange [] s (s.retire (skipTarget s.pc c)) := by
  rw [skipTarget_of_iff s.pc h]
  exact ⟨s.endsOk_retire _, s.onlyRegsChange_retire _⟩

/-- CALL with a slot free is a push of the address after it, then a jump (R123). -/
theorem exec_call_eq_push {nnn : Addr} {s : State} (h : s.sp.val < 16) :
    exec (.call nnn) s = .next ((s.push (s.pc + 2)).retire (absTarget nnn)) := by
  simp only [exec, execCall, Nat.ne_of_lt h, if_false]

/-- RET with SP on slot `k` jumps to what the slot holds (R121). -/
theorem exec_ret_of_slot {s : State} {k : Fin 16} (h : s.sp.val = k.val + 1) :
    exec .ret s = .next (s.pop.retire s.stack[k]) := by
  rw [exec_ret_of_nonempty (by omega), s.stackTop_eq k h]

end Sys2Proof.Machine
end

section
/-! The statements of 40_control_flow.md on RET, JP, CALL, SE and SNE. -/
namespace Sys2Proof.Machine

/-- Settles O29: the slot CALL pushed is the slot RET pops. -/
theorem retAfterCallReturns : Obligations.RetAfterCallReturns := by
  intro nnn s t u hfree ht hsp hstack
  rw [exec_call_eq_push hfree, Host.Outcome.next.injEq] at ht
  subst ht
  have husp : u.sp.val = s.sp.val + 1 := by rw [hsp, State.retire_sp, State.push_sp s _ hfree]
  have hslot : u.stack[s.sp.val] = s.pc + 2 := by
    simp only [hstack, State.retire_stack, State.push_stack s _ hfree, Vector.getElem_set_self]
  refine ⟨_, exec_ret_of_slot (k := ⟨s.sp.val, hfree⟩) husp, hslot, Fin.ext ?_, rfl⟩
  rw [State.retire_sp, State.pop_sp, husp, Nat.add_sub_cancel]

/-- Settles O23, by the two ways RET can end. -/
theorem retPopsOrUnderflows : Obligations.RetPopsOrUnderflows := by
  refine ⟨by decide, fun s hempty => ?_, fun s k hsp => ?_⟩
  · exact ⟨_, exec_ret_of_empty hempty, rfl, rfl, rfl, s.onlyRegsChange_raiseIn _ _ _, rfl, rfl, rfl⟩
  · have hsp' : (s.pop.retire s.stack[k]).sp.val = k.val := by
      rw [State.retire_sp, State.pop_sp, hsp, Nat.add_sub_cancel]
    exact ⟨_, exec_ret_of_slot hsp, s.pop.endsOk_retire _, hsp', fun _ => rfl, fun _ _ => rfl, rfl, ⟨rfl, rfl⟩,
      fun _ _ => rfl, fun _ => rfl, fun hinv => hinv.stackBound k⟩

/-- Settles O24, by the frame of `State.retire`. -/
theorem jumpSetsPc : Obligations.JumpSetsPc := by
  refine ⟨fun nnn => ?_, fun nnn s =>
    ⟨_, rfl, s.endsOk_retire _, absTarget_toNat nnn, s.onlyRegsChange_retire _⟩⟩
  rw [wordA_eq_formatA 0x1000 0x1 rfl, decodeWord_of_family1 (opField_formatA ..), nnnField_formatA]

/-- Settles O25, by the two ways CALL can end. -/
theorem callPushesOrOverflows : Obligations.CallPushesOrOverflows := by
  refine ⟨fun nnn => ?_, fun nnn s hfull => ?_, fun nnn s k hsp => ?_⟩
  · rw [wordA_eq_formatA 0x2000 0x2 rfl, decodeWord_of_family2 (opField_formatA ..), nnnField_formatA]
  · exact ⟨_, exec_call_of_full hfull, rfl, rfl, rfl, s.onlyRegsChange_raiseIn _ _ _, rfl, rfl, rfl⟩
  · have hfree : s.sp.val < 16 := by omega
    have hnew : (s.push (s.pc + 2)).stack[k] = s.pc + 2 := (s.slot_push _ hfree k).trans (if_pos hsp.symm)
    have hold : ∀ j : Fin 16, j ≠ k → (s.push (s.pc + 2)).stack[j] = s.stack[j] := fun j hj =>
      (s.slot_push _ hfree j).trans (if_neg fun h => hj (Fin.ext (h.trans hsp)))
    refine ⟨_, exec_call_eq_push hfree, s.endsOk_push_retire _ _, ?_, hnew, hold,
      fun r _ => State.vx_congr (s.push_v _) r, s.push_i _, ⟨s.push_dt _, s.push_st _⟩, fun r c => ?_,
      fun a => State.readByte_congr (s.push_mem _) a⟩
    · rw [State.retire_sp, State.push_sp s _ hfree, hsp]
    · rw [State.retire_fb, State.push_fb]

/-- Settles O27, by DECODE in the families 3, 4, 5 and 9, and the frame of a skip. -/
theorem compareSkipsSetPc : Obligations.CompareSkipsSetPc := by
  refine ⟨fun x kk => ⟨?_, ?_⟩, fun x y => ⟨?_, ?_⟩, fun x y n hn => ⟨?_, ?_⟩,
    fun x kk s => ⟨_, rfl, s.retire_skip beq_iff_eq⟩, fun x kk s => ⟨_, rfl, s.retire_skip bne_iff_ne⟩,
    fun x y s => ⟨_, rfl, s.retire_skip beq_iff_eq⟩, fun x y s => ⟨_, rfl, s.retire_skip bne_iff_ne⟩⟩
  · rw [wordXK_eq_formatXK 0x3000 0x3 rfl, decodeWord_of_family3 (opField_formatXK ..), xField_formatXK,
      kkField_formatXK]
  · rw [wordXK_eq_formatXK 0x4000 0x4 rfl, decodeWord_of_family4 (opField_formatXK ..), xField_formatXK,
      kkField_formatXK]
  · rw [wordXYN_eq_formatXY 0x5000 0x5 rfl, decodeWord_of_family5 (opField_formatXY ..) (nField_formatXY ..),
      xField_formatXY, yField_formatXY]
  · rw [wordXYN_eq_formatXY 0x9000 0x9 rfl, decodeWord_of_family9 (opField_formatXY ..) (nField_formatXY ..),
      xField_formatXY, yField_formatXY]
  · rw [wordXYN_eq_formatXY 0x5000 0x5 rfl,
      decodeWord_of_lowNibble_ne_zero (.inl (opField_formatXY ..)) (by rwa [nField_formatXY])]
  · rw [wordXYN_eq_formatXY 0x9000 0x9 rfl,
      decodeWord_of_lowNibble_ne_zero (.inr (opField_formatXY ..)) (by rwa [nField_formatXY])]

end Sys2Proof.Machine
end

section
/-! SUPPORT. What the loads and ALU operations of 41_load_alu.md share: DECODE in families 6, 7 and 8, and a STEP that
writes one register and goes on to the next instruction. -/
namespace Sys2Proof.Machine

theorem decodeWord_of_family6 {w : Word} (hop : opField w = 0x6) :
    decodeWord w = .ok (.ldKk (xField w) (kkField w)) := by
  simp only [decodeWord, hop]; rfl

theorem decodeWord_of_family7 {w : Word} (hop : opField w = 0x7) :
    decodeWord w = .ok (.addKk (xField w) (kkField w)) := by
  simp only [decodeWord, hop]; rfl

theorem decodeWord_of_family8_sub0 {w : Word} (hop : opField w = 0x8) (hn : nField w = 0x0) :
    decodeWord w = .ok (.ldVy (xField w) (yField w)) := by
  simp only [decodeWord, hop, hn]; rfl

/-- A register write is not seen at the end of the STEP (00_scope.md R16). -/
theorem State.endsOk_setVx_retireNext (s : State) (x : Nibble) (b : Byte) :
    EndsOk (s.pc + 2) s (s.setVx x b).retireNext :=
  ⟨rfl, rfl, rfl, rfl, rfl, rfl⟩

/-- The register written reads back after the STEP, whichever register it is. -/
theorem State.vx_setVx_retireNext_self (s : State) (x : Nibble) (b : Byte) : (s.setVx x b).retireNext.vx x = b :=
  s.vx_setVx_self x b

/-- No other register changes, VF included (10_state.md R22), nor anything else of the core. -/
theorem State.onlyRegsChange_setVx_retireNext (s : State) (x : Nibble) (b : Byte) :
    OnlyRegsChange [x] s (s.setVx x b).retireNext :=
  ⟨fun _ hr => s.vx_setVx_other b (List.ne_of_not_mem_cons hr), rfl, ⟨rfl, rfl⟩, ⟨rfl, fun _ => rfl⟩,
    fun _ _ => rfl, fun _ => rfl⟩

end Sys2Proof.Machine
end

section
/-! The statement of 41_load_alu.md on LD Vx,kk, ADD Vx,kk and LD Vx,Vy. -/
namespace Sys2Proof.Machine

/-- Settles O30, by DECODE in the families 6, 7 and 8, and the frame of a register write. -/
theorem loadsAndAddImmediate : Obligations.LoadsAndAddImmediate := by
  refine ⟨fun x kk => ⟨?_, ?_⟩, fun x y => ?_, fun x kk s => ⟨_, _, rfl, rfl, ?_⟩,
    fun x kk s => ⟨_, rfl, s.endsOk_setVx_retireNext x kk, s.vx_setVx_retireNext_self x kk,
      s.onlyRegsChange_setVx_retireNext x kk⟩,
    fun x kk s => ⟨_, rfl, s.endsOk_setVx_retireNext x _, ?_, s.onlyRegsChange_setVx_retireNext x _⟩,
    fun x y s => ⟨_, rfl, s.endsOk_setVx_retireNext x _, s.vx_setVx_retireNext_self x _,
      s.onlyRegsChange_setVx_retireNext x _⟩⟩
  · rw [wordXK_eq_formatXK 0x6000 0x6 rfl, decodeWord_of_family6 (opField_formatXK ..), xField_formatXK,
      kkField_formatXK]
  · rw [wordXK_eq_formatXK 0x7000 0x7 rfl, decodeWord_of_family7 (opField_formatXK ..), xField_formatXK,
      kkField_formatXK]
  · rw [wordXYN_eq_formatXY 0x8000 0x8 rfl, decodeWord_of_family8_sub0 (opField_formatXY ..) (nField_formatXY ..),
      xField_formatXY, yField_formatXY]
  · rw [State.vx_setVx_retireNext_self, State.vx_setVx_retireNext_self, BitVec.toNat_add]
  · rw [State.vx_setVx_retireNext_self, BitVec.toNat_add]

end Sys2Proof.Machine
end

section
/-! SUPPORT. What the index instructions of 42_index_memory.md share: DECODE in family A, and a STEP that writes I and goes
on to the next instruction. -/
namespace Sys2Proof.Machine

theorem decodeWord_of_familyA {w : Word} (hop : opField w = 0xA) : decodeWord w = .ok (.ldI (nnnField w)) := by
  simp only [decodeWord, hop]; rfl

/-- A write of I is not seen at the end of the STEP (00_scope.md R16). -/
theorem State.endsOk_setI_retireNext (s : State) (a : Addr) : EndsOk (s.pc + 2) s (s.setI a).retireNext :=
  ⟨rfl, rfl, rfl, rfl, rfl, rfl⟩

/-- Nothing of the core changes but I and PC (00_scope.md R19: what a row does not name does not happen). -/
theorem State.frame_setI_retireNext (s : State) (a : Addr) :
    RegsSameBut [] s (s.setI a).retireNext ∧ TimersSame s (s.setI a).retireNext ∧
      StackSame s (s.setI a).retireNext ∧ FbSame s (s.setI a).retireNext ∧ MemSame s (s.setI a).retireNext :=
  ⟨fun _ _ => rfl, ⟨rfl, rfl⟩, ⟨rfl, fun _ => rfl⟩, fun _ _ => rfl, fun _ => rfl⟩

end Sys2Proof.Machine
end

section
/-! The statement of 42_index_memory.md on LD I,nnn. -/
namespace Sys2Proof.Machine

/-- Settles O37, by DECODE in family A and the frame of a write of I. -/
theorem loadIndexImmediate : Obligations.LoadIndexImmediate := by
  refine ⟨fun nnn => ?_, fun nnn s =>
    ⟨_, rfl, s.endsOk_setI_retireNext nnn, s.setI_i nnn, s.frame_setI_retireNext nnn⟩⟩
  rw [wordA_eq_formatA 0xA000 0xA rfl, decodeWord_of_familyA (opField_formatA ..), nnnField_formatA]

end Sys2Proof.Machine
end

section
/-! SUPPORT. What a draw reports and what DRW leaves (43_display.md R192, R193): a collision is a 1 bit on a cell that was
on, the flag byte tells it, and nothing but the framebuffer and VF changes. -/
namespace Sys2Proof.Machine

/-! Collisions. -/

/-- No bit of drawByte meets a cell an earlier one toggled: it finds the cell as it was before the byte. -/
theorem cell_drawBits_nextCol (fb : Framebuffer) (x y : Nat) (b : Byte) {k : Nat} (hk : k < 8) :
    (drawBits fb (wrapRow y) x b k).1.cell (wrapRow y) (wrapCol x k) = fb.cell (wrapRow y) (wrapCol x k) := by
  rw [Bool.eq_iff_iff, cell_drawBits fb x y b _ _ hk.le]
  simp [not_rowOn_of_nextCol hk rfl, Xor]

/-- The first `k` bit operations of drawByte collide when a 1 bit among them falls on a cell that was on (R192). -/
theorem collided_drawBits (fb : Framebuffer) (x y : Nat) (b : Byte) {k : Nat} (hk : k ≤ 8) :
    (drawBits fb (wrapRow y) x b k).2 = true ↔ ∃ r c, RowOn b x y k r c ∧ fb.cell r c = true := by
  induction k with
  | zero => simp [drawBits, rowOn_zero]
  | succ k ih =>
    have hnew : (∃ r c, (r = wrapRow y ∧ c = wrapCol x k ∧ b.getLsbD (7 - k) = true) ∧ fb.cell r c = true) ↔
        (fb.cell (wrapRow y) (wrapCol x k) && b.getLsbD (7 - k)) = true := by
      simp [and_comm]
    simp only [drawBits_succ, cell_drawBits_nextCol fb x y b hk, Bool.or_eq_true, ih (by omega), rowOn_succ,
      or_and_right, exists_or, hnew]

/-- drawByte collides when one of its 1 bits falls on a cell that was on (R192). -/
theorem collided_drawByte (fb : Framebuffer) (x y : Nat) (b : Byte) :
    (drawByte fb x y b).2 = true ↔ ∃ r c, RowOn b x y 8 r c ∧ fb.cell r c = true :=
  collided_drawBits fb x y b le_rfl

/-- The rows of a sprite below its first one find their cells as they were before the first. -/
theorem cell_drawByte_of_spriteOn (fb : Framebuffer) {x y : Nat} (b : Byte) {rest : List Byte} (hlen : rest.length < 32)
    {r : Fin 32} {c : Fin 64} (hon : SpriteOn rest x (y + 1) r c) :
    (drawByte fb x y b).1.cell r c = true ↔ fb.cell r c = true := by
  have hrow : ¬ RowOn b x y 8 r c := fun hrow => not_spriteOn_of_rowOn hlen hrow hon
  rw [cell_drawByte]
  simp [hrow, Xor]

/-- A sprite of at most 32 rows collides when one of its 1 bits falls on a cell that was on (R193). -/
theorem collided_drawSprite (fb : Framebuffer) (x y : Nat) {sprite : List Byte} (hlen : sprite.length ≤ 32) :
    (drawSprite fb x y sprite).2 = true ↔ ∃ r c, SpriteOn sprite x y r c ∧ fb.cell r c = true := by
  induction sprite generalizing fb y with
  | nil => simp [drawSprite, SpriteOn]
  | cons b rest ih =>
    rw [List.length_cons] at hlen
    have hrest : ∀ r c, SpriteOn rest x (y + 1) r c ∧ (drawByte fb x y b).1.cell r c = true ↔
        SpriteOn rest x (y + 1) r c ∧ fb.cell r c = true := fun r c =>
      and_congr_right (cell_drawByte_of_spriteOn fb b (by omega))
    simp only [drawSprite_cons, Bool.or_eq_true, collided_drawByte, ih _ _ (show rest.length ≤ 32 by omega), hrest,
      spriteOn_cons, or_and_right, exists_or]

/-! The flag byte (10_state.md R36). -/

theorem flagByte_eq_zero_or_one (c : Bool) : flagByte c = 0x00 ∨ flagByte c = 0x01 := by cases c <;> decide

theorem flagByte_eq_one_iff (c : Bool) : flagByte c = 0x01 ↔ c = true := by cases c <;> decide

/-! The sprite bytes, and the end of a STEP that draws. -/

/-- Byte `j` of a block is the byte at `I + j`. -/
theorem State.getD_readBlock (s : State) {n j : Nat} (hj : j < n) (d : Byte) :
    (s.readBlock n).getD j d = s.readByte (dataAddr s.i j) := by
  simp [State.readBlock, hj]

/-- The flag DRW leaves in VF: the collision of its sprite. -/
theorem State.vx_draw_vf (s : State) (px py : Byte) (n : Nat) :
    (s.draw px py n).vx vf = flagByte (drawSprite s.fb px.toNat py.toNat (s.readBlock n)).2 :=
  State.vx_setVx_self _ _ _

/-- After DRW VF holds a flag (10_state.md R36). -/
theorem State.vx_draw_vf_eq_zero_or_one (s : State) (px py : Byte) (n : Nat) :
    (s.draw px py n).vx vf = 0x00 ∨ (s.draw px py n).vx vf = 0x01 := by
  rw [State.vx_draw_vf]
  exact flagByte_eq_zero_or_one _

/-- DRW sets VF to 0x01 exactly on a collision (R193). -/
theorem State.vx_draw_vf_eq_one_iff (s : State) (px py : Byte) {n : Nat} (hn : n ≤ 32) :
    (s.draw px py n).vx vf = 0x01 ↔
      ∃ r c, SpriteOn (s.readBlock n) px.toNat py.toNat r c ∧ s.fb.cell r c = true := by
  rw [State.vx_draw_vf, flagByte_eq_one_iff, collided_drawSprite _ _ _ (by rwa [State.length_readBlock])]

/-- A draw is not seen at the end of the STEP (00_scope.md R16). -/
theorem State.endsOk_draw_retireNext (s : State) (px py : Byte) (n : Nat) :
    EndsOk (s.pc + 2) s (s.draw px py n).retireNext :=
  ⟨rfl, rfl, rfl, rfl, rfl, rfl⟩

/-- DRW past the end of memory faults with its word and EADDR 0x1000, and draws nothing (60_exceptions.md R241, R242). -/
theorem State.raiseIn_drw_endsInFault (s : State) (x y n : Nibble) :
    EndsInFault .addressOutOfRange (wordXYN 0xD000 x y n) 0x1000 s
      (s.raiseIn (.drw x y n) .addressOutOfRange firstOutside) := by
  rw [wordXYN_eq_formatXY 0xD000 0xD rfl]
  exact s.raise_endsInFault _ _ _

end Sys2Proof.Machine
end

section
/-! The statements of 43_display.md on CLS, drawByte and DRW. -/
namespace Sys2Proof.Machine

/-- Settles O45, by what the eight bit operations toggle and when they collide. -/
theorem drawByteTogglesItsCells : Obligations.DrawByteTogglesItsCells := by
  refine fun fb x y b => ⟨cell_drawByte fb x y b, ?_⟩
  simp only [collided_drawByte, RowOn, ← exists_and_right, and_assoc]

/-- Settles O46, by the range check, and inside memory by the toggles and the collision of the sprite. -/
theorem drawTogglesTheSpritesCells : Obligations.DrawTogglesTheSpritesCells := by
  refine ⟨fun x y n s hin => ?_, fun x y n s hn hout =>
    ⟨_, exec_drw_of_outside ⟨hn, hout⟩, s.raiseIn_drw_endsInFault x y n⟩⟩
  have hexec := exec_drw_of_inside (x := x) (y := y) hin
  have hregs : RegsSameBut [vf] s (s.draw (s.vx x) (s.vx y) n.toNat) := fun r hr =>
    s.vx_draw_other _ _ _ (List.ne_of_not_mem_cons hr)
  exact ⟨_, s.readBlock n.toNat, s.length_readBlock _, fun j hj => s.getD_readBlock hj _, hexec,
    s.endsOk_draw_retireNext _ _ _, exec_drw_cell hexec rfl, s.vx_draw_vf_eq_zero_or_one _ _ _,
    s.vx_draw_vf_eq_one_iff _ _ (by omega), hregs, rfl, ⟨rfl, rfl⟩, ⟨rfl, fun _ => rfl⟩, fun _ => rfl⟩

/-- Settles O44, by DECODE of the word and the framebuffer CLS leaves. -/
theorem clearTurnsEveryCellOff : Obligations.ClearTurnsEveryCellOff :=
  ⟨by decide, fun s => ⟨_, rfl, ⟨rfl, rfl, rfl, rfl, rfl, rfl⟩, Framebuffer.cell_cleared, fun _ _ => rfl, rfl,
    ⟨rfl, rfl⟩, ⟨rfl, fun _ => rfl⟩, fun _ => rfl⟩⟩

end Sys2Proof.Machine
end

section
/-! SUPPORT. What the timer instructions of 44_keys_timers.md share: their words and DECODE in family F, a STEP that
writes a timer and goes on to the next instruction, and which instructions write a timer. -/
namespace Sys2Proof.Machine

/-! The words. -/

theorem wordX_eq_formatXK (m : Word) (op : Nibble) (kk : Byte) (hm : m = formatXK op 0x0 kk) (x : Nibble) :
    wordX m x = formatXK op x kk := by
  subst hm
  apply BitVec.eq_of_getLsbD_eq
  intro k hk
  simp only [wordX, formatXK, BitVec.getLsbD_or, BitVec.getLsbD_append, BitVec.getLsbD_shiftLeft,
    BitVec.getLsbD_setWidth]
  interval_cases k <;> simp

theorem decodeWord_of_familyF_sub07 {w : Word} (hop : opField w = 0xF) (hkk : kkField w = 0x07) :
    decodeWord w = .ok (.ldVxDt (xField w)) := by
  simp only [decodeWord, hop, hkk]; rfl

theorem decodeWord_of_familyF_sub15 {w : Word} (hop : opField w = 0xF) (hkk : kkField w = 0x15) :
    decodeWord w = .ok (.ldDtVx (xField w)) := by
  simp only [decodeWord, hop, hkk]; rfl

theorem decodeWord_of_familyF_sub18 {w : Word} (hop : opField w = 0xF) (hkk : kkField w = 0x18) :
    decodeWord w = .ok (.ldStVx (xField w)) := by
  simp only [decodeWord, hop, hkk]; rfl

/-! A write of the timers. -/

/-- A write of the timers is not seen at the end of the STEP (00_scope.md R16). -/
theorem State.endsOk_setTimers_retireNext (s : State) (dt' st' : Byte) :
    EndsOk (s.pc + 2) s { s with dt := dt', st := st' }.retireNext :=
  ⟨rfl, rfl, rfl, rfl, rfl, rfl⟩

/-- Nothing of the core changes but the timers and PC (R19: what a row does not name does not happen). -/
theorem State.frame_setTimers_retireNext (s : State) (dt' st' : Byte) :
    RegsSameBut [] s { s with dt := dt', st := st' }.retireNext ∧
      { s with dt := dt', st := st' }.retireNext.i = s.i ∧
      StackSame s { s with dt := dt', st := st' }.retireNext ∧
      FbSame s { s with dt := dt', st := st' }.retireNext ∧
      MemSame s { s with dt := dt', st := st' }.retireNext :=
  ⟨fun _ _ => rfl, rfl, ⟨rfl, fun _ => rfl⟩, fun _ _ => rfl, fun _ => rfl⟩

/-- TONE follows ST (10_state.md R47). -/
theorem State.tone_iff (s : State) : s.tone = true ↔ s.st.toNat > 0 := decide_eq_true_iff

/-! Which instructions write a timer (10_state.md R28). -/

/-- DT changes in EXECUTE by Fx15 only (R215); Fx07 reads it (R214). -/
theorem exec_dt {i : Instr} {s t : State} (ht : exec i s = .next t) :
    t.dt = s.dt ∨ ∃ x, i = .ldDtVx x ∧ t.dt = s.vx x := by
  by_cases hwrite : ∃ x, i = .ldDtVx x
  · obtain ⟨x, rfl⟩ := hwrite
    cases ht
    exact .inr ⟨x, rfl, rfl⟩
  by_cases hread : ∃ x, i = .ldVxDt x
  · obtain ⟨x, rfl⟩ := hread
    cases ht
    exact .inl rfl
  · obtain ⟨u, hu, hsame, -⟩ :=
      ignores_of_not_reachedBy (Part.reachedBy_delay (not_exists.mp hread) (not_exists.mp hwrite)) s s
    cases hu.symm.trans ht
    exact .inl (congrArg State.dt hsame).symm

/-- ST changes in EXECUTE by Fx18 only (R216). -/
theorem exec_st {i : Instr} {s t : State} (ht : exec i s = .next t) :
    t.st = s.st ∨ ∃ x, i = .ldStVx x ∧ t.st = s.vx x := by
  by_cases hwrite : ∃ x, i = .ldStVx x
  · obtain ⟨x, rfl⟩ := hwrite
    cases ht
    exact .inr ⟨x, rfl, rfl⟩
  · obtain ⟨u, hu, hsame, -⟩ := ignores_of_not_reachedBy (Part.reachedBy_sound (not_exists.mp hwrite)) s s
    cases hu.symm.trans ht
    exact .inl (congrArg State.st hsame).symm

/-- From two values of ST an instruction answers states that differ at most in ST: Fx18 overwrites it, every other
instruction carries it along (R216). -/
theorem exec_sound (i : Instr) (s : State) (st' : Byte) :
    ∃ t t', exec i s = .next t ∧ exec i { s with st := st' } = .next t' ∧
      { t' with st := t.st } = t ∧ (t'.st = st' ∨ t'.st = t.st) := by
  by_cases hwrite : ∃ x, i = .ldStVx x
  · obtain ⟨x, rfl⟩ := hwrite
    exact ⟨_, _, rfl, rfl, rfl, .inr rfl⟩
  · obtain ⟨t, ht, -, hother⟩ :=
      ignores_of_not_reachedBy (Part.reachedBy_sound (not_exists.mp hwrite)) s { s with st := st' }
    exact ⟨t, _, ht, hother, rfl, .inl rfl⟩

/-! A STEP, and TICK. -/

/-- A STEP ends before EXECUTE with the core but its halt record as it was, or runs the fetched word's instruction
(60_exceptions.md R234). -/
theorem stepOp_cases {s t : State} (ht : stepOp s = .next t) :
    OnlyRegsChange [] s t ∨ ∃ i, decodeWord s.fetchWord = .ok i ∧ exec i s = .next t := by
  unfold stepOp at ht
  obtain ⟨-, hf⟩ | ⟨-, -, hf⟩ | ⟨-, -, hf⟩ | ⟨-, i, hi, hf⟩ := s.frontEnd_cases <;> rw [hf] at ht
  case inr.inr.inr => exact .inr ⟨i, hi, ht⟩
  all_goals
    cases ht
    exact .inl ⟨fun _ _ => rfl, rfl, ⟨rfl, rfl⟩, ⟨rfl, fun _ => rfl⟩, fun _ _ => rfl, fun _ => rfl⟩

/-- `n` TICKs take `n` off each timer, floor at 0 (44_keys_timers.md R217). -/
theorem State.tick_iterate_timers (n : Nat) (s : State) :
    (State.tick^[n] s).dt.toNat = s.dt.toNat - n ∧ (State.tick^[n] s).st.toNat = s.st.toNat - n := by
  induction n with
  | zero => exact ⟨rfl, rfl⟩
  | succ n ih =>
    obtain ⟨hdt, hst⟩ := ih
    rw [Function.iterate_succ_apply', State.tick_dt, State.tick_st, timerTick_toNat, timerTick_toNat, hdt, hst]
    exact ⟨Nat.sub_sub .., Nat.sub_sub ..⟩

end Sys2Proof.Machine
end

section
/-! The statements of 44_keys_timers.md on the timer instructions and TICK. -/
namespace Sys2Proof.Machine

/-- Settles O49, by DECODE in family F, noninterference for ST (`exec_sound`) and the frame of a timer write. -/
theorem timerMoves : Obligations.TimerMoves := by
  refine ⟨fun x => ⟨?_, ?_, ?_⟩, exec_sound,
    fun x s => ⟨_, rfl, s.endsOk_setVx_retireNext x _, s.vx_setVx_retireNext_self x _,
      s.onlyRegsChange_setVx_retireNext x _⟩,
    fun x s => ⟨_, rfl, s.endsOk_setTimers_retireNext _ _, rfl, rfl, s.frame_setTimers_retireNext _ _⟩,
    fun x s => ⟨_, rfl, s.endsOk_setTimers_retireNext _ _, rfl, State.tone_iff _, rfl,
      s.frame_setTimers_retireNext _ _⟩⟩
  · rw [wordX_eq_formatXK 0xF007 0xF 0x07 rfl, decodeWord_of_familyF_sub07 (opField_formatXK ..)
      (kkField_formatXK ..), xField_formatXK]
  · rw [wordX_eq_formatXK 0xF015 0xF 0x15 rfl, decodeWord_of_familyF_sub15 (opField_formatXK ..)
      (kkField_formatXK ..), xField_formatXK]
  · rw [wordX_eq_formatXK 0xF018 0xF 0x18 rfl, decodeWord_of_familyF_sub18 (opField_formatXK ..)
      (kkField_formatXK ..), xField_formatXK]

/-- Settles O50, by the timer an instruction may write (`exec_dt`, `exec_st`) and the value one TICK leaves. -/
theorem tickCountsBothTimersDown : Obligations.TickCountsBothTimersDown := by
  refine ⟨fun s t ht => ?_,
    fun s rest hs => ⟨_, step_of_tick hs, timerTick_toNat s.dt, timerTick_toNat s.st, rfl, rfl, rfl,
      fun _ _ => rfl, rfl, ⟨rfl, fun _ => rfl⟩, fun _ _ => rfl, fun _ => rfl, rfl, rfl, rfl⟩,
    State.tick_iterate_timers⟩
  rcases stepOp_cases ht with ⟨-, -, ⟨hdt, hst⟩, -⟩ | ⟨i, hi, hexec⟩
  · exact ⟨fun hne => absurd hdt hne, fun hne => absurd hst hne⟩
  · constructor
    · intro hne
      obtain ⟨x, rfl, hx⟩ := (exec_dt hexec).resolve_left hne
      exact ⟨x, hi, hx⟩
    · intro hne
      obtain ⟨x, rfl, hx⟩ := (exec_st hexec).resolve_left hne
      exact ⟨x, hi, hx⟩

end Sys2Proof.Machine
end

section
/-! SUPPORT. DECODE and the encoder against each other (30_encoding.md R98 to R105): the word of an instruction decodes to
it, and what DECODE answers of any word says what the word is (`decodesTo_decodeWord`). -/
namespace Sys2Proof.Machine

/-- Each format gives its fields back, and the family with its sub-opcode picks the row (R101, R105). -/
theorem decodeWord_encode (i : Instr) : decodeWord (encode i) = .ok i := by
  cases i with
  | cls | ret => rfl
  | jp | call | ldI | jpV0 => simp only [encode, decodeWord, opField_formatA, nnnField_formatA]; rfl
  | seKk | sneKk | ldKk | addKk | rnd | skp | sknp | ldVxDt | ldVxK | ldDtVx | ldStVx | addIVx | ldFVx | ldBVx | ldMemVx
  | ldVxMem => simp only [encode, decodeWord, opField_formatXK, xField_formatXK, kkField_formatXK]; rfl
  | seVy | ldVy | orVy | andVy | xorVy | addVy | subVy | shr | subnVy | shl | sneVy | drw =>
    simp only [encode, decodeWord, opField_formatXY, xField_formatXY, yField_formatXY, nField_formatXY]; rfl

theorem decodeBytes_encodeBytes (i : Instr) (rest : List Byte) : decodeBytes (encodeBytes i ++ rest) = .ok (i, rest) := by
  simp only [encodeBytes, List.cons_append, List.nil_append, decodeBytes, wordOfBytes_split, decodeWord_encode]

/-! A word is its fields in the format of its family (R94). -/

theorem formatA_of_op {w : Word} {op : Nibble} (hop : (opField w).toNat = op.toNat) : formatA op (nnnField w) = w := by
  apply BitVec.eq_of_toNat_eq
  rw [formatA_toNat, ← hop, opField_toNat, nnnField_toNat]; omega

theorem formatXK_of_op {w : Word} {op : Nibble} (hop : (opField w).toNat = op.toNat) :
    formatXK op (xField w) (kkField w) = w := by
  apply BitVec.eq_of_toNat_eq
  rw [formatXK_toNat, ← hop, opField_toNat, xField_toNat, kkField_toNat]; omega

theorem formatXY_of_op {w : Word} {op : Nibble} (hop : (opField w).toNat = op.toNat) :
    formatXY op (xField w) (yField w) (nField w) = w := by
  apply BitVec.eq_of_toNat_eq
  rw [formatXY_toNat, ← hop, opField_toNat, xField_toNat, yField_toNat, nField_toNat]; omega

theorem formatA_of_op_nnn {w : Word} {op : Nibble} {nnn : Addr} (hop : (opField w).toNat = op.toNat)
    (hnnn : (nnnField w).toNat = nnn.toNat) : formatA op nnn = w := by
  rw [← BitVec.eq_of_toNat_eq hnnn, formatA_of_op hop]

theorem formatXK_of_op_kk {w : Word} {op : Nibble} {kk : Byte} (hop : (opField w).toNat = op.toNat)
    (hkk : (kkField w).toNat = kk.toNat) : formatXK op (xField w) kk = w := by
  rw [← BitVec.eq_of_toNat_eq hkk, formatXK_of_op hop]

theorem formatXY_of_op_n {w : Word} {op n : Nibble} (hop : (opField w).toNat = op.toNat)
    (hn : (nField w).toNat = n.toNat) : formatXY op (xField w) (yField w) n = w := by
  rw [← BitVec.eq_of_toNat_eq hn, formatXY_of_op hop]

/-- R98's table of illegal sets, on the fields the decoder looks at. -/
theorem wordLegal_eq (w : Word) : wordLegal w =
    if (opField w).toNat = 0x0 then (nnnField w).toNat = 0x0E0 || (nnnField w).toNat = 0x0EE
    else if (opField w).toNat = 0x5 ∨ (opField w).toNat = 0x9 then (nField w).toNat = 0
    else if (opField w).toNat = 0x8 then !([8, 9, 0xA, 0xB, 0xC, 0xD, 0xF].contains (nField w).toNat)
    else if (opField w).toNat = 0xE then [0x9E, 0xA1].contains (kkField w).toNat
    else if (opField w).toNat = 0xF then
      [0x07, 0x0A, 0x15, 0x18, 0x1E, 0x29, 0x33, 0x55, 0x65].contains (kkField w).toNat
    else true := by
  simp only [opField_toNat, nnnField_toNat, nField_toNat, kkField_toNat]; rfl

/-- What an answer of DECODE says of the word `w`: it is the instruction's own word and legal, or it is illegal and the
refusal names it (R98, R105). -/
def DecodesTo (w : Word) : Except DecodeError Instr → Prop
  | .ok i => encode i = w ∧ wordLegal w = true
  | .error e => e = .unknownInstruction w ∧ wordLegal w = false

/-- Family by family, and in the families 0, 5, 8, 9, E and F sub-opcode by sub-opcode. -/
theorem decodesTo_decodeWord (w : Word) : DecodesTo w (decodeWord w) := by
  have hlegal := wordLegal_eq w
  unfold decodeWord
  dsimp only
  split
  case h_1 hop =>
    split
    case h_1 hnnn => exact ⟨formatA_of_op_nnn (op := 0x0) (nnn := 0x0E0) hop hnnn, by simp [hlegal, hop, hnnn]⟩
    case h_2 hnnn => exact ⟨formatA_of_op_nnn (op := 0x0) (nnn := 0x0EE) hop hnnn, by simp [hlegal, hop, hnnn]⟩
    case h_3 hcls hret => exact ⟨rfl, by simpa [hlegal, hop] using ⟨hcls, hret⟩⟩
  case h_2 hop | h_3 hop | h_11 hop | h_12 hop => exact ⟨formatA_of_op hop, by simp [hlegal, hop]⟩
  case h_4 hop | h_5 hop | h_7 hop | h_8 hop | h_13 hop => exact ⟨formatXK_of_op hop, by simp [hlegal, hop]⟩
  case h_14 hop => exact ⟨formatXY_of_op hop, by simp [hlegal, hop]⟩
  case h_6 hop | h_10 hop =>
    split
    case h_1 hn => exact ⟨formatXY_of_op_n hop hn, by simp [hlegal, hop, hn]⟩
    case h_2 hn => exact ⟨rfl, by simpa [hlegal, hop] using hn⟩
  case h_9 hop =>
    split
    case h_10 =>
      have hn : [8, 9, 0xA, 0xB, 0xC, 0xD, 0xF].contains (nField w).toNat = true := by
        have := (nField w).isLt
        rw [List.contains_iff_mem]
        grind
      exact ⟨rfl, by simp only [hlegal, hop, hn]; rfl⟩
    all_goals
      next hn => exact ⟨formatXY_of_op_n hop hn, by simp [hlegal, hop, hn]⟩
  case h_15 hop =>
    split
    case h_3 hskp hsknp => exact ⟨rfl, by simpa [hlegal, hop] using ⟨hskp, hsknp⟩⟩
    all_goals
      next hkk => exact ⟨formatXK_of_op_kk hop hkk, by simp [hlegal, hop, hkk]⟩
  case h_16 hop =>
    split
    case h_10 => exact ⟨rfl, by simp_all⟩
    all_goals
      next hkk => exact ⟨formatXK_of_op_kk hop hkk, by simp [hlegal, hop, hkk]⟩
  case h_17 =>
    have := (opField w).isLt
    grind

theorem encode_of_decodeWord {w : Word} {i : Instr} (h : decodeWord w = .ok i) : encode i = w := by
  have hw := decodesTo_decodeWord w
  rw [h] at hw
  exact hw.1

theorem wordLegal_iff_decodes (w : Word) : wordLegal w = true ↔ ∃ i, decodeWord w = .ok i := by
  have hw := decodesTo_decodeWord w
  cases hd : decodeWord w with
  | ok i => rw [hd] at hw; simp [hw.2]
  | error e => rw [hd] at hw; simp [hw.2]

theorem decodeWord_of_illegal {w : Word} (h : wordLegal w = false) : decodeWord w = .error (.unknownInstruction w) := by
  have hw := decodesTo_decodeWord w
  cases hd : decodeWord w with
  | ok i => rw [hd] at hw; exact absurd (h.symm.trans hw.2) (by decide)
  | error e => rw [hd] at hw; rw [hw.1]

/-! A STEP by what FETCH and DECODE give (60_exceptions.md R234). -/

theorem stepOp_of_stop {s t : State} (h : s.frontEnd = .inl t) : stepOp s = .next t := by
  simp only [stepOp, h]

theorem stepOp_of_decoded {s : State} {i : Instr} (hc : CanFetch s) (hd : decodeWord s.fetchWord = .ok i) :
    stepOp s = exec i s := by
  simp only [stepOp, State.frontEnd_fetched hc, hd]

theorem stepOp_of_illegal {s : State} (hc : CanFetch s) (h : wordLegal s.fetchWord = false) :
    stepOp s = .next (s.raise .unknownInstruction s.fetchWord 0x0000) :=
  stepOp_of_stop (by rw [State.frontEnd_fetched hc, decodeWord_of_illegal h])

end Sys2Proof.Machine
end

section
/-! SUPPORT. The rows of match and mask (30_encoding.md R96): any two differ on a bit that both masks keep, so a word has at
most one row, and only legal words have one. -/
namespace Sys2Proof.Machine

/-- Two rows that one word matches agree on the bits both masks keep. -/
theorem common_bits_of_rowMatches {w : Word} {row row' : Word × Word} (h : rowMatches w row = true)
    (h' : rowMatches w row' = true) : row.1 &&& row'.2 = row'.1 &&& row.2 := by
  simp only [rowMatches, beq_iff_eq] at h h'
  rw [← h, ← h']
  ac_rfl

/-- "The rows are disjoint", a fact of the table alone. -/
theorem opcodeRows_disjoint : ∀ j k : Fin opcodeRows.length,
    opcodeRows[j].1 &&& opcodeRows[k].2 = opcodeRows[k].1 &&& opcodeRows[j].2 → j = k := by
  decide

theorem rowIndex_unique {w : Word} {j k : Fin opcodeRows.length} (hj : rowMatches w opcodeRows[j] = true)
    (hk : rowMatches w opcodeRows[k] = true) : j = k :=
  opcodeRows_disjoint j k (common_bits_of_rowMatches hj hk)

/-- A word that matches a row has the row's bits in each field, where the mask keeps them. -/
theorem fields_of_rowMatches {w : Word} {row : Word × Word} (h : rowMatches w row = true) :
    opField w &&& opField row.2 = opField row.1 ∧ nField w &&& nField row.2 = nField row.1 ∧
      kkField w &&& kkField row.2 = kkField row.1 ∧ nnnField w &&& nnnField row.2 = nnnField row.1 := by
  simp only [rowMatches, beq_iff_eq] at h
  rw [← h]
  simp [opField, nField, kkField, nnnField, BitVec.extractLsb'_and]

/-- The mask of a row keeps the family, and the field that tells the family's legal words from the others (R98). -/
def MaskKeepsSubOpcode (row : Word × Word) : Prop :=
  opField row.2 = 0xF ∧ ((opField row.1).toNat = 0x0 → nnnField row.2 = 0xFFF) ∧
    ((opField row.1).toNat = 0x5 ∨ (opField row.1).toNat = 0x9 → nField row.2 = 0xF) ∧
    ((opField row.1).toNat = 0x8 → nField row.2 = 0xF) ∧
    ((opField row.1).toNat = 0xE → kkField row.2 = 0xFF) ∧ ((opField row.1).toNat = 0xF → kkField row.2 = 0xFF)

theorem maskKeepsSubOpcode : ∀ k : Fin opcodeRows.length, MaskKeepsSubOpcode opcodeRows[k] := by
  unfold MaskKeepsSubOpcode
  decide

theorem wordLegal_match : ∀ k : Fin opcodeRows.length, wordLegal opcodeRows[k].1 = true := by decide

/-- A word that matches a row is as legal as the row's own match. -/
theorem wordLegal_of_rowMatches {w : Word} {k : Fin opcodeRows.length} (h : rowMatches w opcodeRows[k] = true) :
    wordLegal w = true := by
  obtain ⟨hop, hn, hkk, hnnn⟩ := fields_of_rowMatches h
  obtain ⟨kop, k0, k59, k8, kE, kF⟩ := maskKeepsSubOpcode k
  have ones4 : ∀ a : Nibble, a &&& 0xF = a := fun _ => BitVec.and_allOnes
  have ones8 : ∀ a : Byte, a &&& 0xFF = a := fun _ => BitVec.and_allOnes
  have ones12 : ∀ a : Addr, a &&& 0xFFF = a := fun _ => BitVec.and_allOnes
  rw [kop, ones4] at hop
  rw [← wordLegal_match k, wordLegal_eq w, wordLegal_eq opcodeRows[k].1, hop]
  split_ifs with h0 h59 h8 hE hF
  · rw [← hnnn, k0 h0, ones12]
  · rw [← hn, k59 h59, ones4]
  · rw [← hn, k8 h8, ones4]
  · rw [← hkk, kE hE, ones8]
  · rw [← hkk, kF hF, ones8]
  · rfl

theorem any_rowMatches_iff (w : Word) (k : Nat) :
    (opcodeRows[k]?).any (rowMatches w) = true ↔ ∃ h : k < opcodeRows.length, rowMatches w opcodeRows[k] = true := by
  by_cases h : k < opcodeRows.length <;> simp [h]

open Laws in
/-- The word of every instruction matches its row (R96, R105). -/
theorem rowMatch (i : Instr) : RowMatch.Statement i := by
  cases i
  exacts [RowMatch.cls, RowMatch.ret, RowMatch.jp .., RowMatch.call .., RowMatch.seKk .., RowMatch.sneKk ..,
    RowMatch.seVy .., RowMatch.ldKk .., RowMatch.addKk .., RowMatch.ldVy .., RowMatch.orVy .., RowMatch.andVy ..,
    RowMatch.xorVy .., RowMatch.addVy .., RowMatch.subVy .., RowMatch.shr .., RowMatch.subnVy .., RowMatch.shl ..,
    RowMatch.sneVy .., RowMatch.ldI .., RowMatch.jpV0 .., RowMatch.rnd .., RowMatch.drw .., RowMatch.skp ..,
    RowMatch.sknp .., RowMatch.ldVxDt .., RowMatch.ldVxK .., RowMatch.ldDtVx .., RowMatch.ldStVx ..,
    RowMatch.addIVx .., RowMatch.ldFVx .., RowMatch.ldBVx .., RowMatch.ldMemVx .., RowMatch.ldVxMem ..]

/-- A test that picks one number below `n` filters the range down to it. -/
theorem filter_range_eq_singleton {p : Nat → Bool} {n k : Nat} (hk : k < n) (hp : p k = true)
    (huniq : ∀ j < n, p j = true → j = k) : (List.range n).filter p = [k] := by
  have hsame : (List.range n).filter p = (List.range n).filter (· == k) :=
    List.filter_congr fun j hj => by
      rw [Bool.eq_iff_iff, beq_iff_eq]
      exact ⟨huniq j (List.mem_range.mp hj), fun h => h ▸ hp⟩
  rw [hsame, List.filter_beq, List.count_eq_one_of_mem List.nodup_range (List.mem_range.mpr hk)]
  rfl

end Sys2Proof.Machine
end

section
/-! The statements of 30_encoding.md. -/
namespace Sys2Proof.Machine

/-- Settles O1, by the fields each format gives back. -/
theorem decodeOfEncodeIsTheInstruction : Obligations.DecodeOfEncodeIsTheInstruction := fun i =>
  ⟨decodeWord_encode i, decodeBytes_encodeBytes i⟩

/-- Settles O2, by what an answer of DECODE says of the word. -/
theorem encodeOfDecodeIsTheWord : Obligations.EncodeOfDecodeIsTheWord := fun _ _ => encode_of_decodeWord

/-- Settles O3, by what an answer of DECODE says of the word, and the preciseness of a fault. -/
theorem unknownWordsAreExactlyTheIllegalOnes : Obligations.UnknownWordsAreExactlyTheIllegalOnes :=
  ⟨fun w => (wordLegal_iff_decodes w).symm, fun _ => decodeWord_of_illegal,
    fun s hc hillegal => ⟨_, stepOp_of_illegal hc hillegal, s.raise_endsInFault _ _ _⟩⟩

/-- Settles O4: a decoded word matches its instruction's row (`rowMatch`) and so no other; a word with a row is legal. -/
theorem eachWordMatchesItsOneOpcodeRow : Obligations.EachWordMatchesItsOneOpcodeRow := by
  refine ⟨fun w i hd => ?_, fun w e hd => List.filter_eq_nil_iff.mpr fun k _ hmatch => ?_⟩
  · obtain ⟨row, hrow, hmatch⟩ := rowMatch i
    obtain ⟨hi, rfl⟩ := List.getElem?_eq_some_iff.mp hrow
    rw [encode_of_decodeWord hd] at hmatch
    refine filter_range_eq_singleton hi ((any_rowMatches_iff w _).mpr ⟨hi, hmatch⟩) fun j _ hj => ?_
    obtain ⟨hj, hjmatch⟩ := (any_rowMatches_iff w j).mp hj
    exact congrArg Fin.val (rowIndex_unique (j := ⟨j, hj⟩) (k := ⟨rowOf i, hi⟩) hjmatch hmatch)
  · obtain ⟨hk, hmatch⟩ := (any_rowMatches_iff w k).mp hmatch
    obtain ⟨i, hi⟩ := (wordLegal_iff_decodes w).mp (wordLegal_of_rowMatches (k := ⟨k, hk⟩) hmatch)
    exact nomatch hd.symm.trans hi

end Sys2Proof.Machine
end

section
/-! SUPPORT. What EXECUTE can do, said once for all instructions (`exec_cases`): take one of the faults of
60_exceptions.md R243, or complete, and then what may have changed in each part of the state. -/
namespace Sys2Proof.Machine

/-- When EXECUTE of an instruction faults, and with what cause and address (R242, R243). -/
inductive FaultsWith (s : State) : Instr → Cause → Word → Prop
  | overflow {nnn : Addr} (h : s.sp.val = 16) : FaultsWith s (.call nnn) .stackOverflow 0x0000
  | underflow (h : s.sp.val = 0) : FaultsWith s .ret .stackUnderflow 0x0000
  | sprite {x y n : Nibble} (h : n.toNat ≥ 1 ∧ s.i.toNat + (n.toNat - 1) > 0xFFF) :
      FaultsWith s (.drw x y n) .addressOutOfRange firstOutside
  | digits {x : Nibble} (h : s.i.toNat + 2 > 0xFFF) : FaultsWith s (.ldBVx x) .addressOutOfRange firstOutside
  | store {x : Nibble} (h : s.i.toNat + x.toNat > 0xFFF) : FaultsWith s (.ldMemVx x) .addressOutOfRange firstOutside
  | load {x : Nibble} (h : s.i.toNat + x.toNat > 0xFFF) : FaultsWith s (.ldVxMem x) .addressOutOfRange firstOutside

/-- Where EXECUTE at the fetch address `s.pc` can leave PC without a fault (10_state.md R26). -/
inductive NextPc (s : State) : Word → Prop
  | stay : NextPc s s.pc
  | next : NextPc s (s.pc + 2)
  | skip : NextPc s (s.pc + 4)
  | jump (nnn : Addr) : NextPc s (absTarget nnn)
  | indexed (nnn : Addr) (b : Byte) : NextPc s (indexedTarget nnn b)
  | back (k : Fin 16) : NextPc s s.stack[k]

theorem NextPc.skipTarget (s : State) : ∀ c : Bool, NextPc s (skipTarget s.pc c)
  | false => .next
  | true => .skip

/-- The instructions that write a general register (00_scope.md R19). -/
def writesRegister : Instr → Bool
  | .ldKk _ _ | .addKk _ _ | .ldVy _ _ | .orVy _ _ | .andVy _ _ | .xorVy _ _ | .addVy _ _ | .subVy _ _ | .shr _ _
  | .subnVy _ _ | .shl _ _ | .rnd _ _ | .drw _ _ _ | .ldVxDt _ | .ldVxK _ | .ldVxMem _ => true
  | _ => false

/-- What EXECUTE of `i` without a fault may have changed, part by part; the timers and the framebuffer have rules of
their own (`Part`). -/
structure Completes (i : Instr) (s t : State) : Prop where
  haltRec  : t.haltRec = s.haltRec
  hostSide : HostSideSame s t
  pc       : NextPc s t.pc
  regs     : t.v = s.v ∨ writesRegister i = true
  index    : t.i = s.i ∨ (∃ nnn, i = .ldI nnn) ∨ (∃ x, i = .addIVx x) ∨ ∃ x, i = .ldFVx x
  stack    : t.stack = s.stack ∨ t.stack = (s.push (s.pc + 2)).stack
  mem      : t.mem = s.mem ∨ (∃ x, i = .ldBVx x ∧ t.mem = (s.storeBcd (s.vx x)).mem) ∨
    ∃ x, i = .ldMemVx x ∧ t.mem = (s.storeRegs (x.toNat + 1)).mem

/-- A store completes with its memory (42_index_memory.md R174, R175). -/
theorem completes_setMem {i : Instr} {s : State} {m : Memory}
    (hm : (∃ x, i = .ldBVx x ∧ m = (s.storeBcd (s.vx x)).mem) ∨
      ∃ x, i = .ldMemVx x ∧ m = (s.storeRegs (x.toNat + 1)).mem) :
    Completes i s { s with mem := m }.retireNext :=
  ⟨rfl, ⟨rfl, rfl, rfl⟩, .next, .inl rfl, .inl rfl, .inl rfl, .inr hm⟩

theorem completes_storeBcd (s : State) (x : Nibble) : Completes (.ldBVx x) s (s.storeBcd (s.vx x)).retireNext := by
  rw [s.storeBcd_frame]
  exact completes_setMem (.inl ⟨x, rfl, rfl⟩)

theorem completes_storeRegs (s : State) (x : Nibble) :
    Completes (.ldMemVx x) s (s.storeRegs (x.toNat + 1)).retireNext := by
  rw [s.storeRegs_frame]
  exact completes_setMem (.inr ⟨x, rfl, rfl⟩)

/-- A block load completes with the registers alone changed (R176). -/
theorem completes_loadRegs (s : State) (x : Nibble) :
    Completes (.ldVxMem x) s (s.loadRegs (x.toNat + 1)).retireNext := by
  rw [s.loadRegs_frame]
  exact ⟨rfl, ⟨rfl, rfl, rfl⟩, .next, .inr rfl, .inl rfl, .inl rfl, .inl rfl⟩

/-- EXECUTE faults or completes (60_exceptions.md R233, R241). Where the instruction has a check, by whether it fails. -/
theorem exec_faults_or_completes (i : Instr) (s : State) :
    (∃ cause addr, FaultsWith s i cause addr ∧ exec i s = .next (s.raiseIn i cause addr)) ∨
      ∃ t, exec i s = .next t ∧ Completes i s t := by
  have hhost : HostSideSame s s := ⟨rfl, rfl, rfl⟩
  cases i with
  | ret =>
    by_cases hsp : s.sp.val = 0
    · exact .inl ⟨_, _, .underflow hsp, exec_ret_of_empty hsp⟩
    · obtain ⟨k, hk⟩ : ∃ k : Fin 16, s.sp.val = k.val + 1 :=
        ⟨⟨s.sp.val - 1, by omega⟩, (Nat.sub_add_cancel (by omega)).symm⟩
      exact .inr ⟨_, exec_ret_of_slot hk, rfl, hhost, .back k, .inl rfl, .inl rfl, .inl rfl, .inl rfl⟩
  | call nnn =>
    by_cases hsp : s.sp.val = 16
    · exact .inl ⟨_, _, .overflow hsp, exec_call_of_full hsp⟩
    · exact .inr ⟨_, exec_call_eq_push (by omega), s.push_haltRec _,
        ⟨s.push_inp _, s.push_schedule _, s.push_freeIdx _⟩, .jump nnn, .inl (s.push_v _), .inl (s.push_i _),
        .inr rfl, .inl (s.push_mem _)⟩
  | drw x y n =>
    rcases drw_outside_or_inside n s with hr | hr
    · exact .inl ⟨_, _, .sprite hr, exec_drw_of_outside hr⟩
    · exact .inr ⟨_, exec_drw_of_inside hr, rfl, hhost, .next, .inr rfl, .inl rfl, .inl rfl, .inl rfl⟩
  | ldBVx x =>
    rcases Nat.lt_or_ge 0xFFF (s.i.toNat + 2) with hr | hr
    · exact .inl ⟨_, _, .digits hr, exec_ldBVx_of_outside hr⟩
    · exact .inr ⟨_, exec_ldBVx_of_inside hr, completes_storeBcd s x⟩
  | ldMemVx x =>
    rcases Nat.lt_or_ge 0xFFF (s.i.toNat + x.toNat) with hr | hr
    · exact .inl ⟨_, _, .store hr, exec_ldMemVx_of_outside hr⟩
    · exact .inr ⟨_, exec_ldMemVx_of_inside hr, completes_storeRegs s x⟩
  | ldVxMem x =>
    rcases Nat.lt_or_ge 0xFFF (s.i.toNat + x.toNat) with hr | hr
    · exact .inl ⟨_, _, .load hr, exec_ldVxMem_of_outside hr⟩
    · exact .inr ⟨_, exec_ldVxMem_of_inside hr, completes_loadRegs s x⟩
  | ldVxK x =>
    cases hk : s.inp.keyPending with
    | none => exact .inr ⟨_, exec_ldVxK_none hk, rfl, hhost, .stay, .inl rfl, .inl rfl, .inl rfl, .inl rfl⟩
    | some k => exact .inr ⟨_, exec_ldVxK_some hk, rfl, hhost, .next, .inr rfl, .inl rfl, .inl rfl, .inl rfl⟩
  | jp nnn => exact .inr ⟨_, rfl, rfl, hhost, .jump nnn, .inl rfl, .inl rfl, .inl rfl, .inl rfl⟩
  | jpV0 nnn => exact .inr ⟨_, rfl, rfl, hhost, .indexed nnn _, .inl rfl, .inl rfl, .inl rfl, .inl rfl⟩
  | seKk | sneKk | seVy | sneVy | skp | sknp =>
    exact .inr ⟨_, rfl, rfl, hhost, .skipTarget s _, .inl rfl, .inl rfl, .inl rfl, .inl rfl⟩
  | ldI nnn => exact .inr ⟨_, rfl, rfl, hhost, .next, .inl rfl, .inr (.inl ⟨nnn, rfl⟩), .inl rfl, .inl rfl⟩
  | addIVx x => exact .inr ⟨_, rfl, rfl, hhost, .next, .inl rfl, .inr (.inr (.inl ⟨x, rfl⟩)), .inl rfl, .inl rfl⟩
  | ldFVx x => exact .inr ⟨_, rfl, rfl, hhost, .next, .inl rfl, .inr (.inr (.inr ⟨x, rfl⟩)), .inl rfl, .inl rfl⟩
  | cls | ldDtVx | ldStVx => exact .inr ⟨_, rfl, rfl, hhost, .next, .inl rfl, .inl rfl, .inl rfl, .inl rfl⟩
  | _ => exact .inr ⟨_, rfl, rfl, hhost, .next, .inr rfl, .inl rfl, .inl rfl, .inl rfl⟩

/-- The same of the state EXECUTE answers. -/
theorem exec_cases {i : Instr} {s t : State} (ht : exec i s = .next t) :
    (∃ cause addr, FaultsWith s i cause addr ∧ t = s.raiseIn i cause addr) ∨ Completes i s t := by
  obtain ⟨cause, addr, hf, hu⟩ | ⟨u, hu, hc⟩ := exec_faults_or_completes i s <;> cases hu.symm.trans ht
  · exact .inl ⟨cause, addr, hf, rfl⟩
  · exact .inr hc

theorem exec_answers (i : Instr) (s : State) : ∃ t, exec i s = .next t := by
  obtain ⟨_, _, _, ht⟩ | ⟨t, ht, _⟩ := exec_faults_or_completes i s
  exacts [⟨_, ht⟩, ⟨t, ht⟩]

/-- What halts a running core in EXECUTE is a fault of the instruction. -/
theorem exec_faults_of_halts {i : Instr} {s t : State} (hrun : s.haltRec.halt = false) (ht : exec i s = .next t)
    (hhalt : t.haltRec.halt = true) : ∃ cause addr, FaultsWith s i cause addr ∧ t = s.raiseIn i cause addr :=
  (exec_cases ht).resolve_right fun hdone => by
    rw [hdone.haltRec, hrun] at hhalt
    exact absurd hhalt (by decide)

theorem FaultsWith.cause_ne_none {s : State} {i : Instr} {cause : Cause} {addr : Word}
    (h : FaultsWith s i cause addr) : cause ≠ .none := by
  cases h <;> decide

theorem exec_hostSide {i : Instr} {s t : State} (ht : exec i s = .next t) : HostSideSame s t := by
  obtain ⟨_, _, _, rfl⟩ | hc := exec_cases ht
  exacts [⟨rfl, rfl, rfl⟩, hc.hostSide]

/-- A STEP answers, whatever FETCH and DECODE give (60_exceptions.md R244). -/
theorem stepOp_answers (s : State) : ∃ t, stepOp s = .next t := by
  unfold stepOp
  cases s.frontEnd with
  | inl t => exact ⟨t, rfl⟩
  | inr i => exact exec_answers i s

/-! The invariant. -/

theorem State.inv_reset : State.reset.Inv :=
  ⟨rfl, by decide, by decide, fun _ => rfl, fun h => absurd h (by decide)⟩

theorem State.inv_raise {s : State} (h : s.Inv) {cause : Cause} (hc : cause ≠ .none) (instr addr : Word) :
    (s.raise cause instr addr).Inv :=
  ⟨h.memWf, h.pcBound, h.stackBound, nofun, fun _ => hc⟩

/-- Every target lies in PC's range where the fetch was inside memory (10_state.md R27). -/
theorem NextPc.bound {s : State} (h : s.Inv) (hpc : s.pc.toNat ≤ 0x0FFE) {pc' : Word} (hn : NextPc s pc') :
    pc'.toNat ≤ 0x10FE := by
  obtain ⟨hnext, hskip⟩ := pc_advance_toNat hpc
  cases hn with
  | stay => exact h.pcBound
  | next => omega
  | skip => omega
  | jump nnn => rw [absTarget_toNat]; omega
  | indexed nnn b => rw [indexedTarget_toNat]; omega
  | back k => exact (h.stackBound k).trans (by decide)

/-- A return address pushed lies in the range of R121. -/
theorem State.push_stackBound {s : State} (h : s.Inv) {a : Word} (ha : a.toNat ≤ 0x1000) (k : Fin 16) :
    (s.push a).stack[k].toNat ≤ 0x1000 := by
  by_cases hsp : s.sp.val < 16
  · rw [s.slot_push a hsp k]
    split
    · exact ha
    · exact h.stackBound k
  · have hfull : s.push a = s := dif_neg hsp
    rw [hfull]
    exact h.stackBound k

theorem Completes.inv {i : Instr} {s t : State} (hc : Completes i s t) (h : s.Inv) (hpc : s.pc.toNat ≤ 0x0FFE) :
    t.Inv where
  memWf := by
    obtain hm | ⟨_, _, hm⟩ | ⟨_, _, hm⟩ := hc.mem <;> rw [hm]
    exacts [h.memWf, State.wf_storeBcd h.memWf _, State.wf_storeRegs h.memWf _]
  pcBound := hc.pc.bound h hpc
  stackBound := fun k => by
    obtain hs | hs := hc.stack <;> simp only [hs]
    · exact h.stackBound k
    · exact State.push_stackBound h (by have := (pc_advance_toNat hpc).1; omega) k
  running := by rw [hc.haltRec]; exact h.running
  halted := by rw [hc.haltRec]; exact h.halted

theorem exec_inv {i : Instr} {s t : State} (h : s.Inv) (hpc : s.pc.toNat ≤ 0x0FFE) (ht : exec i s = .next t) :
    t.Inv := by
  obtain ⟨cause, addr, hf, rfl⟩ | hc := exec_cases ht
  · exact State.inv_raise h hf.cause_ne_none _ _
  · exact hc.inv h hpc

theorem stepOp_inv {s t : State} (h : s.Inv) (ht : stepOp s = .next t) : t.Inv := by
  unfold stepOp at ht
  obtain ⟨-, hf⟩ | ⟨-, -, hf⟩ | ⟨-, -, hf⟩ | ⟨hcan, i, -, hf⟩ := s.frontEnd_cases <;> rw [hf] at ht
  case inr.inr.inr => exact exec_inv h hcan.2 ht
  all_goals cases ht
  · exact State.inv_congr h rfl rfl rfl rfl
  · exact State.inv_raise h (by decide) _ _
  · exact State.inv_raise h (by decide) _ _

theorem State.inv_load {s : State} (h : s.Inv) (rom : List Byte) : (s.load rom).Inv := by
  have hwf := State.wf_load h.memWf rom
  rcases Nat.lt_or_ge 3584 rom.length with hlong | hfits
  · rw [State.load_refused s hlong]
    exact State.inv_congr h rfl rfl rfl rfl
  · rw [State.load_accepted s hfits] at hwf ⊢
    exact ⟨hwf, (by decide : programOrigin.toNat ≤ 0x10FE), h.stackBound, h.running, h.halted⟩

/-! The instructions that reach an input (10_state.md R43 to R45). -/

theorem Part.reachedBy_keys {i : Instr} (hskp : ∀ x, i ≠ .skp x) (hsknp : ∀ x, i ≠ .sknp x) :
    Part.keys.reachedBy i = false := by
  cases i with
  | skp x => exact absurd rfl (hskp x)
  | sknp x => exact absurd rfl (hsknp x)
  | _ => rfl

theorem Part.reachedBy_pendingKey {i : Instr} (hwait : ∀ x, i ≠ .ldVxK x) : Part.pendingKey.reachedBy i = false := by
  cases i with
  | ldVxK x => exact absurd rfl (hwait x)
  | _ => rfl

theorem Part.reachedBy_random {i : Instr} (hrnd : ∀ x kk, i ≠ .rnd x kk) : Part.random.reachedBy i = false := by
  cases i with
  | rnd x kk => exact absurd rfl (hrnd x kk)
  | _ => rfl

end Sys2Proof.Machine
end

section
/-! The statements of 00_scope.md, 10_state.md and 60_exceptions.md on a whole step and on faults. -/
namespace Sys2Proof.Machine

/-- Settles O12, by the cases of the next operation; a STEP by what EXECUTE may change (`Completes.inv`). -/
theorem stepKeepsTheInvariant : Obligations.StepKeepsTheInvariant := by
  intro s t h ht
  have hhost : ∀ rest inp n, { s with schedule := rest, inp := inp, freeIdx := n }.Inv := fun _ _ _ =>
    State.inv_congr h rfl rfl rfl rfl
  obtain ⟨-, hstep⟩ | ⟨inp, rest, -, hstep⟩ | ⟨rest, -, hstep⟩ | ⟨rom, rest, -, hstep⟩ | ⟨rest, -, hstep⟩ |
    ⟨rest, -, hstep⟩ := step_cases s <;> rw [hstep] at ht
  case inl => exact stepOp_inv (hhost _ _ _) ht
  case inr.inl => exact stepOp_inv (hhost _ _ _) ht
  all_goals cases ht
  · exact State.inv_congr State.inv_reset rfl rfl rfl rfl
  · exact State.inv_load (hhost _ _ _) rom
  · exact State.inv_congr h rfl rfl rfl rfl
  · exact State.inv_congr h rfl rfl rfl rfl

/-- Settles O11, by EXECUTE's two ways to end. -/
theorem everyStepAnswersANextState : Obligations.EveryStepAnswersANextState := by
  intro s
  unfold step
  split
  case h_3 => exact stepOp_answers _
  all_goals exact ⟨_, rfl⟩

/-- Settles O13, field by field. -/
theorem resetMeetsTheInvariant : Obligations.ResetMeetsTheInvariant := State.inv_reset

/-- Settles O9: FETCH and DECODE fault on the fetched word, EXECUTE on the word of the instruction, which is the fetched
word again (`encode_of_decodeWord`). -/
theorem faultsArePrecise : Obligations.FaultsArePrecise := by
  intro s t hrun ht hhalt
  unfold stepOp at ht
  obtain ⟨hh, -⟩ | ⟨-, hpc, hf⟩ | ⟨hc, -, hf⟩ | ⟨hc, i, hi, hf⟩ := s.frontEnd_cases
  · exact absurd (hrun.symm.trans hh) (by decide)
  · rw [hf] at ht
    cases ht
    rw [if_pos hpc]
    exact ⟨_, _, by decide, s.raise_endsInFault _ _ _⟩
  · rw [hf] at ht
    cases ht
    rw [if_neg (Nat.not_lt.mpr hc.2)]
    exact ⟨_, _, by decide, s.raise_endsInFault _ _ _⟩
  · rw [hf] at ht
    rw [if_neg (Nat.not_lt.mpr hc.2), ← encode_of_decodeWord hi]
    obtain ⟨cause, addr, hfault, rfl⟩ := exec_faults_of_halts hrun ht hhalt
    exact ⟨cause, addr, hfault.cause_ne_none, s.raise_endsInFault _ _ _⟩

/-- Settles O10, by the faults EXECUTE can take (`FaultsWith`). -/
theorem faultCausesByInstruction : Obligations.FaultCausesByInstruction := by
  intro i s t hrun ht hhalt
  obtain ⟨cause, addr, hfault, rfl⟩ := exec_faults_of_halts hrun ht hhalt
  cases hfault with
  | overflow h => exact .inl ⟨rfl, ⟨_, rfl⟩, h, rfl⟩
  | underflow h => exact .inr (.inl ⟨rfl, rfl, h, rfl⟩)
  | sprite h => exact .inr (.inr ⟨rfl, rfl, .inl ⟨_, _, _, rfl, h⟩⟩)
  | digits h => exact .inr (.inr ⟨rfl, rfl, .inr (.inl ⟨_, rfl, h⟩)⟩)
  | store h => exact .inr (.inr ⟨rfl, rfl, .inr (.inr ⟨_, .inl rfl, h⟩)⟩)
  | load h => exact .inr (.inr ⟨rfl, rfl, .inr (.inr ⟨_, .inr rfl, h⟩)⟩)

/-- Settles O18, by the memory part of what EXECUTE may change. -/
theorem memoryWrittenOnlyByStores : Obligations.MemoryWrittenOnlyByStores := by
  refine ⟨fun i s t hbcd hstore ht => ?_, fun s t op rest hs hop ht => ?_⟩
  · obtain ⟨_, _, _, rfl⟩ | hdone := exec_cases ht
    · exact fun _ => rfl
    · obtain hm | ⟨x, hx, -⟩ | ⟨x, hx, -⟩ := hdone.mem
      exacts [State.readByte_congr hm, absurd hx (hbcd x), absurd hx (hstore x)]
  · obtain rfl | rfl := hop
    · rw [step_of_tick hs] at ht; cases ht; exact fun _ => rfl
    · rw [step_of_snapshot hs] at ht; cases ht; exact fun _ => rfl

/-- Settles O20, by the part of I in what EXECUTE may change. -/
theorem indexWrittenOnlyByItsInstructions : Obligations.IndexWrittenOnlyByItsInstructions := by
  intro i s t ht hne
  obtain ⟨_, _, _, rfl⟩ | hdone := exec_cases ht
  · exact absurd rfl hne
  · exact hdone.index.resolve_left hne

/-- Settles O22, by noninterference (`ignores_of_not_reachedBy`) for each input. -/
theorem inputsIgnoredByAllOthers : Obligations.InputsIgnoredByAllOthers := by
  refine ⟨fun i s k hskp hsknp => ?_, fun i s p hwait => ?_, fun i s b hrnd => ?_⟩
  · obtain ⟨t, ht, -, hother⟩ := ignores_of_not_reachedBy (Part.reachedBy_keys hskp hsknp) s
      { s with inp := { s.inp with keys := k } }
    exact ⟨t, ht, hother.trans (by simp only [State.putPart, (exec_hostSide ht).1])⟩
  · obtain ⟨t, ht, -, hother⟩ := ignores_of_not_reachedBy (Part.reachedBy_pendingKey hwait) s
      { s with inp := { s.inp with keyPending := p } }
    exact ⟨t, ht, hother.trans (by simp only [State.putPart, (exec_hostSide ht).1])⟩
  · obtain ⟨t, ht, -, hother⟩ := ignores_of_not_reachedBy (Part.reachedBy_random hrnd) s
      { s with inp := { s.inp with rnd := b } }
    exact ⟨t, ht, hother.trans (by simp only [State.putPart, (exec_hostSide ht).1])⟩

end Sys2Proof.Machine
end

section
/-! SUPPORT. What the ALU operations and skips of 41_load_alu.md and 44_keys_timers.md share: a STEP that writes a result,
then the flag (R141), and each flag, low nibble and shift as a number. -/
namespace Sys2Proof.Machine

/-! A result and a flag. -/

theorem State.endsOk_setResultFlag_retireNext (s : State) (x : Nibble) (b : Byte) (c : Bool) :
    EndsOk (s.pc + 2) s (s.setResultFlag x b c).retireNext :=
  ⟨rfl, rfl, rfl, rfl, rfl, rfl⟩

theorem State.onlyRegsChange_setResultFlag_retireNext (s : State) (x : Nibble) (b : Byte) (c : Bool) :
    OnlyRegsChange [x, vf] s (s.setResultFlag x b c).retireNext := by
  refine ⟨fun r hr => ?_, rfl, ⟨rfl, rfl⟩, ⟨rfl, fun _ => rfl⟩, fun _ _ => rfl, fun _ => rfl⟩
  obtain ⟨hx, hvf⟩ : r ≠ x ∧ r ≠ vf := by simpa using hr
  exact (s.vx_setResultFlag x r b c).trans (by rw [if_neg hvf, if_neg hx])

/-- The result stands where it is not overwritten by the flag. -/
theorem State.vx_setResultFlag_result (s : State) {x : Nibble} (b : Byte) (c : Bool) (hx : x ≠ vf) :
    (s.setResultFlag x b c).retireNext.vx x = b :=
  (s.vx_setResultFlag x x b c).trans (by rw [if_neg hx, if_pos rfl])

/-- The flag stands whatever the destination: it is the later write. -/
theorem State.vx_setResultFlag_vf (s : State) (x : Nibble) (b : Byte) (c : Bool) :
    (s.setResultFlag x b c).retireNext.vx vf = flagByte c :=
  (s.vx_setResultFlag x vf b c).trans (if_pos rfl)

/-- How a flag-writing instruction ends, its result and its flag as numbers. -/
theorem exec_resultFlag_spec {i : Instr} {s : State} {x : Nibble} {b : Byte} {c : Bool} {result flag : Nat}
    (hexec : exec i s = .next (s.setResultFlag x b c).retireNext) (hb : b.toNat = result)
    (hc : (flagByte c).toNat = flag) :
    ∃ t, exec i s = .next t ∧ EndsOk (s.pc + 2) s t ∧ (x ≠ vf → (t.vx x).toNat = result) ∧ (t.vx vf).toNat = flag ∧
      OnlyRegsChange [x, vf] s t :=
  ⟨_, hexec, s.endsOk_setResultFlag_retireNext x b c, fun hx => (s.vx_setResultFlag_result b c hx).symm ▸ hb,
    (s.vx_setResultFlag_vf x b c).symm ▸ hc, s.onlyRegsChange_setResultFlag_retireNext x b c⟩

/-- A flag whose test decides `p`, as a number. -/
theorem flagByte_toNat_of_iff {c : Bool} {p : Prop} [Decidable p] (h : c = true ↔ p) :
    (flagByte c).toNat = if p then 1 else 0 := by
  simp only [flagByte_toNat, h]

theorem carryOf_iff (a b : Byte) : carryOf a b = true ↔ a.toNat + b.toNat > 255 := decide_eq_true_iff

theorem notBorrowOf_iff (a b : Byte) : notBorrowOf borrowStrict a b = true ↔ a.toNat ≥ b.toNat := decide_eq_true_iff

theorem flagByte_lowBit_toNat (a : Byte) : (flagByte (lowBit a)).toNat = a.toNat % 2 := by
  rw [flagByte_toNat, lowBit, BitVec.getLsbD, Nat.testBit_eq_decide_div_mod_eq]
  simp only [decide_eq_true_eq]
  split <;> omega

theorem flagByte_highBit_toNat (a : Byte) : (flagByte (highBit a)).toNat = a.toNat / 128 := by
  have := a.isLt
  rw [flagByte_toNat, highBit, BitVec.getLsbD, Nat.testBit_eq_decide_div_mod_eq]
  simp only [decide_eq_true_eq]
  split <;> omega

theorem sub_toNat (a b : Byte) : (a - b).toNat = (a.toNat + 256 - b.toNat) % 256 := by
  have := b.isLt
  rw [BitVec.toNat_sub]
  omega

theorem ushiftRight_one_toNat (a : Byte) : (a >>> 1).toNat = a.toNat / 2 := by
  rw [BitVec.toNat_ushiftRight, Nat.shiftRight_eq_div_pow]

theorem shiftLeft_one_toNat (a : Byte) : (a <<< 1).toNat = 2 * a.toNat % 256 := by
  rw [BitVec.toNat_shiftLeft, Nat.shiftLeft_eq, mul_comm]

/-! Answers. -/

/-- A STEP or an operation that only answers changes nothing of the core. -/
theorem State.onlyRegsChange_setReport (s : State) (rest : List HostOp) (n : Nat) (r : Report) :
    OnlyRegsChange [] s { s with schedule := rest, freeIdx := n, report := r } :=
  ⟨fun _ _ => rfl, rfl, ⟨rfl, rfl⟩, ⟨rfl, fun _ => rfl⟩, fun _ _ => rfl, fun _ => rfl⟩

/-! Low nibbles. -/

theorem lowNibble_toNat (b : Byte) : (lowNibble b).toNat = b.toNat % 16 := by
  rw [lowNibble, BitVec.extractLsb'_toNat, Nat.shiftRight_zero]

theorem keyDown_lowNibble (inp : Inputs) (b : Byte) : inp.keyDown (lowNibble b) = inp.keys.getLsbD (b.toNat % 16) := by
  rw [Inputs.keyDown, lowNibble_toNat]

/-- A glyph address does not wrap: the font ends below 0x200 (10_state.md R34). -/
theorem glyphAddr_toNat (d : Nibble) : (glyphAddr d).toNat = fontBase.toNat + 5 * d.toNat := by
  have := d.isLt
  rw [glyphAddr, BitVec.toNat_add, BitVec.toNat_ofNat, fontBase_toNat]
  omega

end Sys2Proof.Machine
end

section
/-! The statements of 41_load_alu.md on the register-register operations, shifts and RND. -/
namespace Sys2Proof.Machine

/-- Settles O31, by the frame of a register write. -/
theorem bitwiseOperations : Obligations.BitwiseOperations := by
  refine ⟨fun x y s => ⟨_, rfl, s.endsOk_setVx_retireNext x _, fun k _ => ?_, s.onlyRegsChange_setVx_retireNext x _⟩,
    fun x y s => ⟨_, rfl, s.endsOk_setVx_retireNext x _, fun k _ => ?_, s.onlyRegsChange_setVx_retireNext x _⟩,
    fun x y s => ⟨_, rfl, s.endsOk_setVx_retireNext x _, fun k _ => ?_, s.onlyRegsChange_setVx_retireNext x _⟩⟩
  · rw [State.vx_setVx_retireNext_self, BitVec.getLsbD_or]
  · rw [State.vx_setVx_retireNext_self, BitVec.getLsbD_and]
  · rw [State.vx_setVx_retireNext_self, BitVec.getLsbD_xor]

/-- Settles O32, by the sum and the carry. -/
theorem addSetsSumAndCarry : Obligations.AddSetsSumAndCarry := fun _ _ _ =>
  exec_resultFlag_spec rfl (BitVec.toNat_add ..) (flagByte_toNat_of_iff (carryOf_iff ..))

/-- Settles O33, by the difference and not-borrow. -/
theorem subtractionsSetDifferenceAndNotBorrow : Obligations.SubtractionsSetDifferenceAndNotBorrow :=
  ⟨fun _ _ _ => exec_resultFlag_spec rfl (sub_toNat ..) (flagByte_toNat_of_iff (notBorrowOf_iff ..)),
    fun _ _ _ => exec_resultFlag_spec rfl (sub_toNat ..) (flagByte_toNat_of_iff (notBorrowOf_iff ..))⟩

/-- Settles O34: the operand is Vx (log 8), halved or doubled, with the bit that leaves it in the flag. -/
theorem shiftsMoveOneBitIntoTheFlag : Obligations.ShiftsMoveOneBitIntoTheFlag :=
  ⟨fun x _ s => exec_resultFlag_spec rfl (ushiftRight_one_toNat (s.vx x)) (flagByte_lowBit_toNat (s.vx x)),
    fun x _ s => exec_resultFlag_spec rfl (shiftLeft_one_toNat (s.vx x)) (flagByte_highBit_toNat (s.vx x))⟩

/-- Settles O35, by the frames of a register write and of a result and a flag. -/
theorem sameRegisterAsBothOperands : Obligations.SameRegisterAsBothOperands := by
  intro x s hx
  have hvf : vf ≠ x := hx.symm
  have hnb : notBorrowOf borrowStrict (s.vx x) (s.vx x) = true := (notBorrowOf_iff _ _).mpr le_rfl
  refine ⟨⟨_, rfl, s.vx_setVx_self x _, s.vx_setVx_other _ hvf⟩, ⟨_, rfl, ?_, s.vx_setVx_other _ hvf⟩,
    ⟨_, rfl, ?_, s.vx_setVx_other _ hvf⟩, ⟨_, rfl, ?_, s.vx_setVx_other _ hvf⟩, ⟨_, rfl, ?_, ?_⟩, ⟨_, rfl, ?_, ?_⟩,
    ⟨_, rfl, ?_, ?_⟩⟩
  · rw [State.vx_setVx_retireNext_self, BitVec.or_self]
  · rw [State.vx_setVx_retireNext_self, BitVec.and_self]
  · rw [State.vx_setVx_retireNext_self, BitVec.xor_self]; rfl
  · rw [State.vx_setResultFlag_result s _ _ hx, BitVec.toNat_add, two_mul]
  · rw [State.vx_setResultFlag_vf, flagByte_toNat_of_iff (carryOf_iff _ _)]
    exact if_congr (by omega) rfl rfl
  · rw [State.vx_setResultFlag_result s _ _ hx, BitVec.sub_self]; rfl
  · rw [State.vx_setResultFlag_vf, hnb]; rfl
  · rw [State.vx_setResultFlag_result s _ _ hx, BitVec.sub_self]; rfl
  · rw [State.vx_setResultFlag_vf, hnb]; rfl

/-- Settles O36, by the frame of a register write; a byte whose bits are a subset of the mask's is its own draw. -/
theorem randomIsTheDrawMasked : Obligations.RandomIsTheDrawMasked := by
  refine ⟨fun x kk s => ⟨_, rfl, s.endsOk_setVx_retireNext x _, fun k _ => ?_, s.onlyRegsChange_setVx_retireNext x _⟩,
    fun x kk b s => ⟨?_, fun hsub => ⟨b, _, rfl, ?_⟩⟩⟩
  · rw [State.vx_setVx_retireNext_self, BitVec.getLsbD_and]
  · rintro ⟨r, t, ht, rfl⟩ k -
    cases ht
    rw [State.vx_setVx_retireNext_self, BitVec.getLsbD_and, Bool.and_eq_true]
    exact And.right
  · rw [State.vx_setVx_retireNext_self]
    refine BitVec.eq_of_getLsbD_eq fun k hk => ?_
    rw [BitVec.getLsbD_and]
    exact Bool.and_eq_left_iff_imp.mpr (hsub k hk)

end Sys2Proof.Machine
end

section
/-! The statements on JP V0 (40_control_flow.md), the index register (42_index_memory.md), the keys (44_keys_timers.md) and
the alternatives of 00_scope.md section 3. -/
namespace Sys2Proof.Machine

/-- Settles O26, by the frame of `State.retire`. -/
theorem indexedJumpSetsPcToTheFullSum : Obligations.IndexedJumpSetsPcToTheFullSum := fun nnn s =>
  ⟨_, rfl, s.endsOk_retire _, indexedTarget_toNat nnn _, s.onlyRegsChange_retire _⟩

/-- Settles O28, by the frame of a skip. -/
theorem keySkipsSetPc : Obligations.KeySkipsSetPc := by
  refine ⟨fun x s => ⟨_, rfl, s.retire_skip ?_⟩, fun x s => ⟨_, rfl, s.retire_skip ?_⟩⟩
  · rw [keyDown_lowNibble]
  · rw [keyDown_lowNibble, Bool.not_eq_true']

/-- Settles O38, by the frame of a write of I. -/
theorem addToIndexAndGlyphAddress : Obligations.AddToIndexAndGlyphAddress := by
  refine ⟨fun x s => ⟨_, rfl, s.endsOk_setI_retireNext _, ?_, s.frame_setI_retireNext _⟩,
    fun x s => ⟨_, rfl, s.endsOk_setI_retireNext _, ?_, s.frame_setI_retireNext _⟩⟩
  · rw [State.retireNext_i, State.setI_i, BitVec.toNat_add, BitVec.toNat_setWidth, Nat.add_mod_mod]
  · rw [State.retireNext_i, State.setI_i, glyphAddr_toNat, lowNibble_toNat]

/-- Settles O48, by the two ways the wait can end. -/
theorem waitForKeyBlocksOrTakesTheKey : Obligations.WaitForKeyBlocksOrTakesTheKey := by
  refine ⟨fun x s hnone => ⟨_, exec_ldVxK_none hnone, rfl, rfl, rfl,
      s.onlyRegsChange_setReport _ _ _, rfl, rfl, rfl⟩,
    fun x k s hsome => ⟨_, exec_ldVxK_some hsome, rfl, rfl, rfl, ?_, s.onlyRegsChange_setVx_retireNext x _, rfl, rfl,
      rfl⟩⟩
  have hk : ((s.setVx x (k.setWidth 8)).retireNext.ackKey).vx x = k.setWidth 8 := s.vx_setVx_self x _
  rw [hk, BitVec.toNat_setWidth_of_le (by decide)]

/-- Settles O53, by the arms of each policy. -/
theorem alternativePoliciesDifferOnlyWhereSaid : Obligations.AlternativePoliciesDifferOnlyWhereSaid := by
  refine ⟨fun a b => ?_, fun _ _ => ⟨rfl, rfl⟩, fun _ _ => rfl, fun _ => rfl, fun base j => ?_⟩
  · simp only [notBorrowOf, ne_eq, ← BitVec.toNat_inj, if_true, Bool.false_eq_true, if_false, decide_eq_decide]
    omega
  · simp only [dataAddr, BitVec.toNat_add, BitVec.toNat_ofNat, Nat.add_mod_mod]

end Sys2Proof.Machine
end

section
/-! SUPPORT. How the memory instructions of 42_index_memory.md end, and what RESET and LOAD leave in memory
(10_state.md section 12, 70_reset_and_hazards.md R275). -/
namespace Sys2Proof.Machine

/-! Stores and loads. -/

/-- Memory as the only change before the advance to the next instruction. -/
theorem State.endsOk_setMem_retireNext (s : State) (m : Memory) :
    EndsOk (s.pc + 2) s { s with mem := m }.retireNext ∧ OnlyMemChanges s { s with mem := m }.retireNext :=
  ⟨⟨rfl, rfl, rfl, rfl, rfl, rfl⟩, fun _ _ => rfl, rfl, ⟨rfl, rfl⟩, ⟨rfl, fun _ => rfl⟩, fun _ _ => rfl⟩

/-- A block store ends well, and only memory changes (R175). -/
theorem State.endsOk_storeRegs_retireNext (s : State) (n : Nat) :
    EndsOk (s.pc + 2) s (s.storeRegs n).retireNext ∧ OnlyMemChanges s (s.storeRegs n).retireNext := by
  rw [s.storeRegs_frame]
  exact s.endsOk_setMem_retireNext _

/-- The byte at `I + r` after a block store that reaches it is `V[r]`. -/
theorem State.readByte_storeRegs_reg (s : State) {n : Nat} (hn : n ≤ 16) {r : Nibble} (hr : r.toNat < n) :
    (s.storeRegs n).readByte (dataAddr s.i r.toNat) = s.vx r := by
  rw [(s.readByte_storeRegs hn _).1 r.toNat hr rfl, BitVec.ofNat_toNat, BitVec.setWidth_eq]

/-- A block load ends well, and nothing but registers changes (R176). -/
theorem State.endsOk_loadRegs_retireNext (s : State) (n : Nat) :
    EndsOk (s.pc + 2) s (s.loadRegs n).retireNext ∧ (s.loadRegs n).retireNext.i = s.i ∧
      TimersSame s (s.loadRegs n).retireNext ∧ StackSame s (s.loadRegs n).retireNext ∧
      FbSame s (s.loadRegs n).retireNext ∧ MemSame s (s.loadRegs n).retireNext := by
  rw [s.loadRegs_frame]
  exact ⟨⟨rfl, rfl, rfl, rfl, rfl, rfl⟩, rfl, ⟨rfl, rfl⟩, ⟨rfl, fun _ => rfl⟩, fun _ _ => rfl, fun _ => rfl⟩

/-- A memory instruction past the end of memory faults with its word and EADDR 0x1000 (60_exceptions.md R241, R242). -/
theorem State.raiseIn_endsInFault (s : State) {i : Instr} {w : Word} (hw : w = encode i) :
    EndsInFault .addressOutOfRange w 0x1000 s (s.raiseIn i .addressOutOfRange firstOutside) := by
  rw [hw]
  exact s.raise_endsInFault _ _ _

/-! RESET and LOAD. -/

/-- After RESET every cell holds its reset byte. -/
theorem State.readByte_reset (a : Addr) : State.reset.readByte a = resetByte a.toNat := rfl

/-- RESET with `RESET_ZERO = false` writes the font into memory and nothing else there (00_scope.md section 3). -/
theorem State.readByte_resetFrom (u : State) (a : Addr) :
    u.resetFrom.readByte a =
      if fontBase.toNat ≤ a.toNat ∧ a.toNat < fontBase.toNat + 80 then font.getD (a.toNat - fontBase.toNat) 0x00
      else u.readByte a := by
  rw [State.readByte, u.resetFrom_mem, Memory.read_writeBytes, font_length]; rfl

/-- An accepted LOAD leaves the registers, I, the timers, the stack and the framebuffer alone (R275). -/
theorem State.onlyMemChanges_load (s : State) {rom : List Byte} (h : rom.length ≤ 3584) :
    OnlyMemChanges s (s.load rom) := by
  rw [s.load_accepted h]
  exact ⟨fun _ _ => rfl, rfl, ⟨rfl, rfl⟩, ⟨rfl, fun _ => rfl⟩, fun _ _ => rfl⟩

/-! FETCH. -/

/-- The two bytes at PC, as DECODE takes them, are the fetched word (20_memory.md R62). -/
theorem decodeWord_fetchWord {s : State} {i : Instr} (hpc : s.pc.toNat ≤ 0x0FFE)
    (h : decodeBytes [s.mem.read s.pc.toNat, s.mem.read (s.pc.toNat + 1)] = .ok (i, [])) :
    decodeWord s.fetchWord = .ok i := by
  rw [State.fetchWord_eq hpc]
  simp only [decodeBytes] at h
  cases hd : decodeWord (wordOfBytes (s.mem.read s.pc.toNat) (s.mem.read (s.pc.toNat + 1))) with
  | ok j => rw [hd] at h; cases h; rfl
  | error e => rw [hd] at h; cases h

/-! The flag register. -/

/-- A register write changes VF only if it names it. -/
theorem eq_vf_of_setVx {s : State} {x : Nibble} {b : Byte} (h : (s.setVx x b).vx vf ≠ s.vx vf) : x = vf := by
  by_contra hx
  exact h (s.vx_setVx_other b (Ne.symm hx))

/-- A flag-writing instruction leaves 0x00 or 0x01 in VF. -/
theorem State.vx_setResultFlag_vf_eq_zero_or_one (s : State) (x : Nibble) (b : Byte) (c : Bool) :
    (s.setResultFlag x b c).retireNext.vx vf = 0x00 ∨ (s.setResultFlag x b c).retireNext.vx vf = 0x01 := by
  rw [State.vx_setResultFlag_vf]
  exact flagByte_eq_zero_or_one c

/-- A block load changes VF only if it goes up to it. -/
theorem eq_vf_of_loadRegs {s : State} {x : Nibble} (h : (s.loadRegs (x.toNat + 1)).vx vf ≠ s.vx vf) : x = vf := by
  rw [s.vx_loadRegs (by omega)] at h
  have hx : (15 : Nat) < x.toNat + 1 := by
    by_contra hx
    exact h (if_neg hx)
  apply BitVec.eq_of_toNat_eq
  rw [show vf.toNat = 15 from rfl]
  omega

end Sys2Proof.Machine
end

section
/-! The statements of 42_index_memory.md on the stores and loads, and of 20_memory.md section 7. -/
namespace Sys2Proof.Machine

/-- Settles O39, by the range check, and inside memory by what the three stores leave. -/
theorem bcdStoresThreeDigitsOrFaults : Obligations.BcdStoresThreeDigitsOrFaults := by
  refine ⟨fun x s hin => ?_, fun x s hout => ⟨_, exec_ldBVx_of_outside hout,
    s.raiseIn_endsInFault (wordX_eq_formatXK 0xF033 0xF 0x33 rfl x)⟩⟩
  obtain ⟨hends, honly⟩ := s.endsOk_setMem_retireNext (s.storeBcd (s.vx x)).mem
  obtain ⟨hundreds, htens, hones⟩ := bcd_toNat (s.vx x)
  have hne : ∀ {j k : Nat}, j < 3 → k < 3 → j ≠ k → dataAddr s.i j ≠ dataAddr s.i k := fun hj hk hjk h =>
    hjk (dataAddr_inj (by omega) (by omega) h)
  have hread : ∀ a, (s.storeBcd (s.vx x)).retireNext.readByte a = _ := s.readByte_storeBcd (s.vx x)
  refine ⟨_, exec_ldBVx_of_inside hin, hends, ?_, ?_, ?_, fun a ha => ?_, honly⟩
  · rw [hread, if_neg (hne (by decide) (by decide) (by decide)), if_neg (hne (by decide) (by decide) (by decide)),
      if_pos rfl, hundreds]
  · rw [hread, if_neg (hne (by decide) (by decide) (by decide)), if_pos rfl, htens]
  · rw [hread, if_pos rfl, hones]
  · rw [hread, if_neg (ha 2 (by decide)), if_neg (ha 1 (by decide)), if_neg (ha 0 (by decide))]

/-- Settles O40, by the range check, and inside memory by what a block store leaves. -/
theorem blockStoreWritesOrFaults : Obligations.BlockStoreWritesOrFaults := by
  refine ⟨fun x s hin => ?_, fun x s hout => ⟨_, exec_ldMemVx_of_outside hout,
    s.raiseIn_endsInFault (wordX_eq_formatXK 0xF055 0xF 0x55 rfl x)⟩⟩
  obtain ⟨hends, honly⟩ := s.endsOk_storeRegs_retireNext (x.toNat + 1)
  exact ⟨_, exec_ldMemVx_of_inside hin, hends, fun r hr => s.readByte_storeRegs_reg (by omega) (by omega),
    fun a ha => (s.readByte_storeRegs (by omega) a).2 ha, honly⟩

/-- Settles O41, by the range check, and inside memory by what a block load leaves. -/
theorem blockLoadReadsOrFaults : Obligations.BlockLoadReadsOrFaults := by
  refine ⟨fun x s hin => ?_, fun x s hout => ⟨_, exec_ldVxMem_of_outside hout,
    s.raiseIn_endsInFault (wordX_eq_formatXK 0xF065 0xF 0x65 rfl x)⟩⟩
  obtain ⟨hends, hframe⟩ := s.endsOk_loadRegs_retireNext (x.toNat + 1)
  have hload : ∀ r, (s.loadRegs (x.toNat + 1)).retireNext.vx r = _ := s.vx_loadRegs (by omega)
  exact ⟨_, exec_ldVxMem_of_inside hin, hends, fun r hr => (hload r).trans (if_pos (by omega)),
    fun r hr => (hload r).trans (if_neg (by omega)), hframe⟩

/-- Settles O42: the byte a block load reads for `V[r]` is the one the block store left for it. -/
theorem blockLoadUndoesBlockStore : Obligations.BlockLoadUndoesBlockStore := by
  intro x s t u hin ht hmem hi
  rw [exec_ldMemVx_of_inside hin, Host.Outcome.next.injEq] at ht
  subst ht
  refine ⟨_, exec_ldVxMem_of_inside (by rwa [hi]), rfl, fun r hr => ?_⟩
  calc (u.loadRegs (x.toNat + 1)).vx r
      = u.readByte (dataAddr u.i r.toNat) := (u.vx_loadRegs (by omega) r).trans (if_pos (by omega))
    _ = (s.storeRegs (x.toNat + 1)).readByte (dataAddr s.i r.toNat) := by rw [hi]; exact State.readByte_congr hmem _
    _ = s.vx r := s.readByte_storeRegs_reg (by omega) (by omega)

/-- Settles O43: the two bytes FETCH reads at I are the ones the block store left for V0 and V1. -/
theorem fetchSeesAStore : Obligations.FetchSeesAStore := by
  intro x s t i hrun hx hin ht hd
  rw [exec_ldMemVx_of_inside hin, Host.Outcome.next.injEq] at ht
  have hi : (s.i.setWidth 16 : Word).toNat = s.i.toNat := BitVec.toNat_setWidth_of_le (by decide)
  have hhalt : t.haltRec.halt = false := by
    rw [← ht, State.retireNext_haltRec, s.storeRegs_frame]; exact hrun
  have hreg : ∀ r : Nibble, r.toNat ≤ x.toNat → t.mem.read (s.i.toNat + r.toNat) = s.vx r := fun r hr => by
    rw [← dataAddr_toNat (by omega), ← ht]
    exact s.readByte_storeRegs_reg (by omega) (by omega)
  have hpc : (s.i.setWidth 16 : Word).toNat ≤ 0x0FFE := by omega
  refine stepOp_of_decoded ⟨hhalt, hpc⟩ ?_
  rw [State.fetchWord_eq hpc]
  simp only [hi]
  have hv0 : t.mem.read s.i.toNat = s.vx 0x0 := hreg 0x0 (Nat.zero_le _)
  have hv1 : t.mem.read (s.i.toNat + 1) = s.vx 0x1 := hreg 0x1 hx
  rw [hv0, hv1, hd]

end Sys2Proof.Machine
end

section
/-! The statements of 43_display.md on drawing twice and of 10_state.md on the flag register. -/
namespace Sys2Proof.Machine

/-- Toggling twice for the same reason changes nothing. -/
theorem xor_xor_cancel {p q a b : Prop} (hp : q ↔ Xor p a) (hq : b ↔ Xor q a) : b ↔ p := by
  unfold Xor at *; tauto

/-- Settles O47: each draw is an exclusive or with the same sprite at the same position (`exec_drw_cell`). -/
theorem drawingTwiceRestoresTheScreen : Obligations.DrawingTwiceRestoresTheScreen := by
  intro x y n s hx hy hin
  have hfirst := exec_drw_of_inside (x := x) (y := y) hin
  generalize htdef : (s.draw (s.vx x) (s.vx y) n.toNat).retireNext = t at hfirst
  have hi : t.i = s.i := by rw [← htdef]; rfl
  have hmem : t.mem = s.mem := by rw [← htdef]; rfl
  have hvx : t.vx x = s.vx x := by rw [← htdef]; exact s.vx_draw_other _ _ _ hx
  have hvy : t.vx y = s.vx y := by rw [← htdef]; exact s.vx_draw_other _ _ _ hy
  have hok : t.report = .step .ok false := by rw [← htdef]; rfl
  have hsprite : t.readBlock n.toNat = s.readBlock n.toNat := by
    simp only [State.readBlock, hi, State.readByte_congr hmem]
  have hsecond := exec_drw_of_inside (x := x) (y := y) (s := t) (n := n) (by rwa [hi])
  rw [hvx, hvy] at hsecond
  have htcell := exec_drw_cell hfirst hok
  have hucell := exec_drw_cell hsecond rfl
  rw [hsprite, hvx, hvy] at hucell
  refine ⟨t, _, hfirst, hsecond, Framebuffer.ext_cell fun r c => ?_, ?_⟩
  · rw [Bool.eq_iff_iff]
    exact xor_xor_cancel (htcell r c) (hucell r c)
  · refine (t.vx_draw_vf_eq_one_iff _ _ (by omega)).trans ?_
    rw [hsprite]
    refine exists_congr fun r => exists_congr fun c => and_congr_right fun hon => ?_
    rw [htcell, ← Bool.not_eq_true]
    simp [hon, Xor]

/-- Settles O21, instruction by instruction: no register written, a destination, or a flag. -/
theorem flagRegisterWrittenOnlyAsSaid : Obligations.FlagRegisterWrittenOnlyAsSaid := by
  intro i s t ht hne
  obtain ⟨_, _, _, rfl⟩ | hdone := exec_cases ht
  · exact absurd rfl hne
  have hwrites := hdone.regs.resolve_left fun hv => hne (State.vx_congr hv vf)
  cases i with
  | addVy x y | subVy x y | shr x y | subnVy x y | shl x y =>
    cases ht
    exact .inl ⟨.inl ⟨x, y, by simp⟩, s.vx_setResultFlag_vf_eq_zero_or_one ..⟩
  | drw x y n =>
    rcases drw_outside_or_inside n s with hr | hr
    · cases (exec_drw_of_outside hr).symm.trans ht
      exact absurd rfl hne
    · cases (exec_drw_of_inside hr).symm.trans ht
      exact .inl ⟨.inr ⟨x, y, n, rfl⟩, s.vx_draw_vf_eq_zero_or_one _ _ _⟩
  | ldKk x kk | addKk x kk | rnd x kk =>
    cases ht
    cases eq_vf_of_setVx hne
    exact .inr (.inl ⟨kk, by simp⟩)
  | ldVy x y | orVy x y | andVy x y | xorVy x y =>
    cases ht
    cases eq_vf_of_setVx hne
    exact .inr (.inr (.inl ⟨y, by simp⟩))
  | ldVxDt x =>
    cases ht
    cases eq_vf_of_setVx hne
    exact .inr (.inr (.inr (.inl rfl)))
  | ldVxK x =>
    cases hk : s.inp.keyPending with
    | none => cases (exec_ldVxK_none hk).symm.trans ht; exact absurd rfl hne
    | some k =>
      cases (exec_ldVxK_some hk).symm.trans ht
      cases eq_vf_of_setVx hne
      exact .inr (.inr (.inr (.inr (.inl rfl))))
  | ldVxMem x =>
    rcases Nat.lt_or_ge 0xFFF (s.i.toNat + x.toNat) with hr | hr
    · cases (exec_ldVxMem_of_outside hr).symm.trans ht
      exact absurd rfl hne
    · cases (exec_ldVxMem_of_inside hr).symm.trans ht
      cases eq_vf_of_loadRegs hne
      exact .inr (.inr (.inr (.inr (.inr rfl))))
  | _ => cases hwrites

end Sys2Proof.Machine
end

section
/-! The statements on the whole step, RESET and LOAD. -/
namespace Sys2Proof.Machine

/-- Settles O5, by running DECODE on each word. -/
theorem sampleWordsDecode : Obligations.SampleWordsDecode := by
  unfold Obligations.SampleWordsDecode
  decide

/-- Settles O6, by the cases of the next operation and of DECODE. -/
theorem stepRunsTheDecodedInstruction : Obligations.StepRunsTheDecodedInstruction := by
  intro s i hrun hpc hbytes
  have hd := decodeWord_fetchWord hpc hbytes
  exact ⟨fun inp rest hs => (step_of_step hs).trans (stepOp_of_decoded ⟨hrun, hpc⟩ hd),
    fun hs => (step_of_empty hs).trans (stepOp_of_decoded ⟨hrun, hpc⟩ hd)⟩

/-- Settles O7, by the range check of FETCH. -/
theorem fetchPastMemoryFaults : Obligations.FetchPastMemoryFaults := fun s hrun hpc =>
  ⟨_, stepOp_of_stop (State.frontEnd_fetchFault hrun hpc), s.raise_endsInFault _ _ _⟩

/-- Settles O8, operation by operation. -/
theorem haltedCoreStaysHaltedUntilReset : Obligations.HaltedCoreStaysHaltedUntilReset := by
  intro s hhalt
  refine ⟨⟨_, stepOp_of_stop (State.frontEnd_halted hhalt), rfl, rfl, rfl, s.onlyRegsChange_setReport _ _ _, rfl, rfl,
      rfl⟩,
    fun rest hs => ⟨_, step_of_tick hs, rfl, timerTick_toNat s.dt, timerTick_toNat s.st⟩,
    fun rest hs => ⟨_, step_of_snapshot hs, rfl, rfl⟩, fun rom rest hs hfits => ⟨_, step_of_load hs, ?_, ?_, ?_⟩,
    fun rest hs => ⟨_, step_of_reset hs, rfl⟩⟩
  · rw [State.load_accepted _ hfits]
  · rw [State.load_accepted _ hfits]
    rfl
  · intro j hj
    rw [State.read_load _ hfits, if_pos (by omega), Nat.add_sub_cancel_left]

/-- Settles O14, field by field. -/
theorem resetLeavesTheStatedValues : Obligations.ResetLeavesTheStatedValues := by
  refine ⟨⟨rfl, ?_, rfl, rfl, rfl, rfl, ?_, ?_, rfl, rfl, State.readByte_reset⟩, fun s rest hs =>
    ⟨_, step_of_reset hs, rfl, rfl, rfl, State.reset.onlyRegsChange_setReport _ _ _, rfl⟩⟩
  · intro r; simp [State.vx, State.reset]
  · intro k; simp [State.reset]
  · exact Framebuffer.cell_cleared

/-- Settles O15, by the frame of `State.resetFrom` and what the font's copy leaves. -/
theorem resetWithoutZeroKeepsTheRest : Obligations.ResetWithoutZeroKeepsTheRest := fun u =>
  ⟨rfl, rfl, rfl, u.readByte_resetFrom, fun _ _ => rfl, rfl, ⟨rfl, rfl⟩, fun _ => rfl, fun _ _ => rfl⟩

/-- Settles O51, by the two ways LOAD can end. -/
theorem loadCopiesTheProgramOrRefuses : Obligations.LoadCopiesTheProgramOrRefuses := by
  refine ⟨fun s rom rest hs hfits => ?_, fun s rom rest hs hlong => ?_⟩
  · have hread := State.read_load { s with schedule := rest } hfits
    have honly := State.onlyMemChanges_load { s with schedule := rest } hfits
    rw [State.load_accepted _ hfits] at hread honly
    refine ⟨_, (step_of_load hs).trans (by rw [State.load_accepted _ hfits]), rfl, rfl, fun a => hread a.toNat, rfl,
      honly, rfl⟩
  · refine ⟨_, step_of_load hs, ?_⟩
    rw [State.load_refused _ hlong]
    exact ⟨rfl, rfl, rfl, s.onlyRegsChange_setReport _ _ _, rfl⟩

end Sys2Proof.Machine
end
